-- ==== Sys2Proof/Word.lean ====
section
/-! DEFINITION. The value widths of the block (R5, R8, R10): all unsigned, all wrapping. -/

namespace Sys2Proof

/-- One byte of data (R5 `BYTE_W`). -/
abbrev Byte := BitVec 8

/-- An address (R5 `ADDR_W`): arithmetic on it wraps modulo 65536 (R8), so no address is out of range. -/
abbrev Addr := BitVec 16

/-- The data of a 16-bit access (R10). -/
abbrev Half := BitVec 16

/-- A 41-bit request word, format `REQ` (R91, R99). -/
abbrev RequestWord := BitVec 41

end Sys2Proof
end

