-- ==== Sys2Proof/Config.lean ====
section
/-! DEFINITION. What the block's surroundings fix and the spec leaves open. The fixed parameters of R5 are no choice of an
implementation: they stand as definitions in Machine/Operands.lean and Machine/Flags.lean. -/

namespace Sys2Proof

/-- The byte a collaborator returns on the `n`-th port call for which the environment's list of answers holds no byte
(R26, R272, `93_implementation_defined.md` items 1 to 4: "any value, drawn per call"). A free value: it has no body, so
no proof can see it. The step supplies `n` from `State.drawn` (log entry 2). -/
opaque Config.freeAnswer : Nat → Byte

end Sys2Proof
end

