-- ==== Sys2Proof/Syntax.lean ====
section
/-! DEFINITION. The names the spec uses (ports, interrupt kinds, regions, dispatch cases), the instruction type, with one
constructor for every mnemonic of spec/opcode_table.json, and the requests that carry instructions. -/

namespace Sys2Proof

/-- The port a request arrives on, and with it the requester's privilege (R91 `port`, R247). -/
inductive Port where
  /-- Port 0, "used by the processor". -/
  | cpu
  /-- Port 1, "exposed to adapters, never to the processor". -/
  | privileged
deriving DecidableEq, Repr

/-- The five interrupt kinds (R37, R96, R244). -/
inductive Kind where
  | vblank
  | lcdStat
  | timer
  | serial
  | joypad
deriving DecidableEq, Repr

/-- The 12 regions of the address map, a closed set (R61, R95, R123). -/
inductive Region where
  | bankZero
  | bankSwitchable
  | videoRAM
  | externalRAM
  | workRAM1
  | workRAM2
  | echoRAM
  | spriteAttributeTable
  | notUsable
  | ioRegisters
  | highRAM
  | interruptEnable
deriving DecidableEq, Repr

/-- The seven cases of the read dispatch map (R101). -/
inductive ReadCase where
  | cart
  | irq
  | vram
  | oam
  | joyp
  | div
  | plain
deriving DecidableEq, Repr

/-- The twelve cases of the write dispatch map (R102). -/
inductive WriteCase where
  | cart
  | wram
  | echo
  | div
  | lcdc
  | ly
  | stat
  | joyp
  | vram
  | oam
  | dma
  | plain
deriving DecidableEq, Repr

/-- The operations of R92, then the read and write dispatch cases of R101 and R102. The table's rows of one mnemonic
(the address rows of one case, the three rows of `RESERVED`) are one constructor. `FORCE_WRITE` has no port operand:
its row fixes `port` = 1, so a force on the CPU-facing port cannot be written down (R247: "statically prevents
accidental misuse"). A case whose row fixes the whole address has no address operand. -/
inductive Instr where
  /-- `READ a` (R140). -/
  | read (port : Port) (addr : Addr)
  /-- `WRITE a, d` (R170). -/
  | write (port : Port) (addr : Addr) (data : Byte)
  /-- `READ16 a` (R150). -/
  | read16 (port : Port) (addr : Addr)
  /-- `WRITE16 a, w` (R185). -/
  | write16 (port : Port) (addr : Addr) (data : Half)
  /-- `priv: FORCE_WRITE a, d` (R186). -/
  | forceWrite (addr : Addr) (data : Byte)
  /-- `SET_ENABLE k, v` (R221). -/
  | setEnable (port : Port) (kind : Kind) (val : Bool)
  /-- `SET_FLAG k, v` (R222). -/
  | setFlag (port : Port) (kind : Kind) (val : Bool)
  /-- `INT_PENDING k` (R223). -/
  | intPending (port : Port) (kind : Kind)
  /-- `CLASSIFY a` (R120). -/
  | classify (port : Port) (addr : Addr)
  /-- A word whose `op` is 0x9..0xF, with the bits below `op` as they stand (R92, R98). -/
  | reserved (port : Port) (op : BitVec 4) (rest : BitVec 36)
  /-- `RD.CART` (R141). -/
  | readCart (addr : Addr)
  /-- `RD.IRQ` (R142). -/
  | readIrq (addr : Addr)
  /-- `RD.VRAM` (R143). -/
  | readVram (addr : Addr)
  /-- `RD.OAM` (R144). -/
  | readOam (addr : Addr)
  /-- `RD.JOYP` at 0xFF00 (R145). -/
  | readJoyp
  /-- `RD.DIV` at 0xFF04 (R146). -/
  | readDiv
  /-- `RD.PLAIN` (R147). -/
  | readPlain (addr : Addr)
  /-- `WR.CART` (R171). -/
  | writeCart (addr : Addr) (data : Byte)
  /-- `WR.WRAM` (R172). -/
  | writeWram (addr : Addr) (data : Byte)
  /-- `WR.ECHO` (R173). -/
  | writeEcho (addr : Addr) (data : Byte)
  /-- `WR.DIV` at 0xFF04 (R174). -/
  | writeDiv (data : Byte)
  /-- `WR.LCDC` at 0xFF40 (R175). -/
  | writeLcdc (data : Byte)
  /-- `WR.LY` at 0xFF44 (R176). -/
  | writeLy (data : Byte)
  /-- `WR.STAT` at 0xFF41 (R177). -/
  | writeStat (data : Byte)
  /-- `WR.JOYP` at 0xFF00 (R178). -/
  | writeJoyp (data : Byte)
  /-- `WR.VRAM` (R179). -/
  | writeVram (addr : Addr) (data : Byte)
  /-- `WR.OAM` (R180). -/
  | writeOam (addr : Addr) (data : Byte)
  /-- `WR.DMA` at 0xFF46 (R181). -/
  | writeDma (data : Byte)
  /-- `WR.PLAIN` (R182). -/
  | writePlain (addr : Addr) (data : Byte)
deriving DecidableEq, Repr

/-- One entry of the sequence of requests, the block's "program" (R23). A request is a 41-bit word (R91), or the
source's own call `read(address)` / `write(address, data)` (R90) with the address in the table's `ADDR16` format,
which names the dispatch case directly (R101, R102). DESIGN CHOICE (log entry 4). -/
inductive Request where
  | word (w : RequestWord)
  | readAt (addr : Addr)
  | writeAt (addr : Addr) (data : Byte)
deriving DecidableEq, Repr

/-- Why the decoder rejects a request word (R98 (b) to (d), R241). Reserved operation codes (R98 (a)) have a row of their own
in the table: they decode to `Instr.reserved`, whose meaning is the refusal. -/
inductive Reject where
  /-- `kind` is 5..7 in an interrupt-view operation. -/
  | badKind
  /-- A field that R92 marks "0" is not zero. -/
  | nonZeroUnusedField
  /-- `FORCE_WRITE` with `port` = 0. -/
  | forceOnCpuPort
deriving DecidableEq, Repr

end Sys2Proof
end

