-- ==== Sys2Proof/WellFormed.lean ====
section
/-! DEFINITION. Which instructions the tables of R92, R101 and R102 admit: the operand types carry most of it, and what is
left is that a reserved operation code is 0x9 or more and that a dispatch case's address is one of the case's addresses,
written here from the "addresses" columns of R101 and R102 (the decoder uses the match/mask rows instead). -/

namespace Sys2Proof

/-- `lo <= a <= hi`. -/
def inRange (lo hi : Nat) (a : Addr) : Bool :=
  decide (lo ≤ a.toNat) && decide (a.toNat ≤ hi)

/-- Regions 0, 1, 3: the cartridge's addresses (R101 `RD.CART`, R102 `WR.CART`). -/
def isCartAddr (a : Addr) : Bool :=
  inRange 0x0000 0x7FFF a || inRange 0xA000 0xBFFF a

/-- Region 2 (R101 `RD.VRAM`, R102 `WR.VRAM`). -/
def isVramAddr (a : Addr) : Bool :=
  inRange 0x8000 0x9FFF a

/-- Region 7 (R101 `RD.OAM`, R102 `WR.OAM`). -/
def isOamAddr (a : Addr) : Bool :=
  inRange 0xFE00 0xFE9F a

/-- The two interrupt registers (R101 `RD.IRQ`). -/
def isIrqAddr (a : Addr) : Bool :=
  a == 0xFF0F#16 || a == 0xFFFF#16

/-- Regions 4, 5 (R102 `WR.WRAM`). -/
def isWramAddr (a : Addr) : Bool :=
  inRange 0xC000 0xDFFF a

/-- Region 6 (R102 `WR.ECHO`). -/
def isEchoAddr (a : Addr) : Bool :=
  inRange 0xE000 0xFDFF a

/-- "All other addresses" of the read map (R101 `RD.PLAIN`): regions 4, 5, 6, 8, 10 and the I/O page except 0xFF00,
0xFF04 and 0xFF0F. -/
def isPlainReadAddr (a : Addr) : Bool :=
  inRange 0xC000 0xFDFF a || inRange 0xFEA0 0xFEFF a || inRange 0xFF80 0xFFFE a ||
    (inRange 0xFF00 0xFF7F a && !(a == 0xFF00#16) && !(a == 0xFF04#16) && !(a == 0xFF0F#16))

/-- "All other addresses" of the write map (R102 `WR.PLAIN`): regions 8, 10, 11 and the I/O page except 0xFF00, 0xFF04,
0xFF40, 0xFF41, 0xFF44 and 0xFF46. -/
def isPlainWriteAddr (a : Addr) : Bool :=
  inRange 0xFEA0 0xFEFF a || inRange 0xFF80 0xFFFF a ||
    (inRange 0xFF00 0xFF7F a && !(a == 0xFF00#16) && !(a == 0xFF04#16) && !(a == 0xFF40#16) &&
      !(a == 0xFF41#16) && !(a == 0xFF44#16) && !(a == 0xFF46#16))

/-- The check of an instruction's operands. -/
def wellFormed : Instr → Bool
  | .read _ _ => true
  | .write _ _ _ => true
  | .read16 _ _ => true
  | .write16 _ _ _ => true
  | .forceWrite _ _ => true
  | .setEnable _ _ _ => true
  | .setFlag _ _ _ => true
  | .intPending _ _ => true
  | .classify _ _ => true
  | .reserved _ op _ => decide (9 ≤ op.toNat)
  | .readCart a => isCartAddr a
  | .readIrq a => isIrqAddr a
  | .readVram a => isVramAddr a
  | .readOam a => isOamAddr a
  | .readJoyp => true
  | .readDiv => true
  | .readPlain a => isPlainReadAddr a
  | .writeCart a _ => isCartAddr a
  | .writeWram a _ => isWramAddr a
  | .writeEcho a _ => isEchoAddr a
  | .writeDiv _ => true
  | .writeLcdc _ => true
  | .writeLy _ => true
  | .writeStat _ => true
  | .writeJoyp _ => true
  | .writeVram a _ => isVramAddr a
  | .writeOam a _ => isOamAddr a
  | .writeDma _ => true
  | .writePlain a _ => isPlainWriteAddr a

end Sys2Proof
end

