-- ==== Sys2Proof/Decode.lean ====
section
/-! DEFINITION. The decoder of request words (R91, R92, R96, R98) and of addresses (R100 to R102), total on every word and
rejecting by name; and, after it, the encoder, written from the same tables of `30_encoding.md`. -/

namespace Sys2Proof

/-! ## The fields of a request word (R91) -/

/-- Bit 40. -/
def portField (w : RequestWord) : BitVec 1 := w.extractLsb' 40 1

/-- Bits 39:36. -/
def opField (w : RequestWord) : BitVec 4 := w.extractLsb' 36 4

/-- Bits 35:20. -/
def addrField (w : RequestWord) : Addr := w.extractLsb' 20 16

/-- Bits 19:4. -/
def dataField (w : RequestWord) : Half := w.extractLsb' 4 16

/-- `data[7:0]`, the byte of a byte operation (R93). -/
def dataLow (w : RequestWord) : Byte := (dataField w).extractLsb' 0 8

/-- `data[15:8]`, which a byte operation leaves zero (R92). -/
def dataHigh (w : RequestWord) : Byte := (dataField w).extractLsb' 8 8

/-- Bits 3:1. -/
def kindField (w : RequestWord) : BitVec 3 := w.extractLsb' 1 3

/-- Bit 0. -/
def valField (w : RequestWord) : BitVec 1 := w.extractLsb' 0 1

/-- Bits 35:0, everything below `op`. -/
def restField (w : RequestWord) : BitVec 36 := w.extractLsb' 0 36

/-- `port`: 0 is the CPU-facing port, 1 the privileged port (R91). -/
def portOfBit (b : BitVec 1) : Port :=
  if b = 1#1 then .privileged else .cpu

/-- The inverse of `portOfBit`. -/
def portBit : Port → BitVec 1
  | .cpu => 0#1
  | .privileged => 1#1

/-- The bit index of a kind, which is also its code in a request (R96). -/
def kindCode : Kind → BitVec 3
  | .vblank => 0#3
  | .lcdStat => 1#3
  | .timer => 2#3
  | .serial => 3#3
  | .joypad => 4#3

/-- The kind a code names; 5, 6 and 7 name none (R96). -/
def kindOfCode (c : BitVec 3) : Option Kind :=
  if c = 0#3 then some .vblank
  else if c = 1#3 then some .lcdStat
  else if c = 2#3 then some .timer
  else if c = 3#3 then some .serial
  else if c = 4#3 then some .joypad
  else none

/-! ## The zero fields of R92 and the decoder of request words -/

/-- Every field but `addr` is zero: `READ`, `READ16`, `CLASSIFY`. -/
def onlyAddr (w : RequestWord) : Bool :=
  dataField w == 0#16 && kindField w == 0#3 && valField w == 0#1

/-- `data[15:8]`, `kind` and `val` are zero: `WRITE`, `FORCE_WRITE`. -/
def onlyAddrByte (w : RequestWord) : Bool :=
  dataHigh w == 0#8 && kindField w == 0#3 && valField w == 0#1

/-- `kind` and `val` are zero: `WRITE16`. -/
def onlyAddrHalf (w : RequestWord) : Bool :=
  kindField w == 0#3 && valField w == 0#1

/-- `addr` and `data` are zero: `SET_ENABLE`, `SET_FLAG`. -/
def onlyKindVal (w : RequestWord) : Bool :=
  addrField w == 0#16 && dataField w == 0#16

/-- `addr`, `data` and `val` are zero: `INT_PENDING`. -/
def onlyKind (w : RequestWord) : Bool :=
  addrField w == 0#16 && dataField w == 0#16 && valField w == 0#1

/-- `i`, provided the unused fields are zero (R98 (c)). -/
def unusedZero (ok : Bool) (i : Instr) : Except Reject Instr :=
  if ok then .ok i else .error .nonZeroUnusedField

/-- An interrupt-view request: a kind 5..7 is refused first, then a nonzero unused field (R98 (b), (c); the order is the
model's, log entry 5). -/
def withKind (w : RequestWord) (ok : Bool) (f : Kind → Instr) : Except Reject Instr :=
  match kindOfCode (kindField w) with
  | some k => unusedZero ok (f k)
  | none => .error .badKind

/-- `FORCE_WRITE`: a nonzero unused field is refused first, then the CPU-facing port (R98 (c), (d); log entry 5). -/
def decodeForce (w : RequestWord) : Except Reject Instr :=
  if onlyAddrByte w then
    match portOfBit (portField w) with
    | .privileged => .ok (.forceWrite (addrField w) (dataLow w))
    | .cpu => .error .forceOnCpuPort
  else .error .nonZeroUnusedField

/-- The instruction of a 41-bit request word (R92, R98). -/
def decodeWord (w : RequestWord) : Except Reject Instr :=
  let p := portOfBit (portField w)
  let op := (opField w).toNat
  if op = 0x0 then unusedZero (onlyAddr w) (.read p (addrField w))
  else if op = 0x1 then unusedZero (onlyAddrByte w) (.write p (addrField w) (dataLow w))
  else if op = 0x2 then unusedZero (onlyAddr w) (.read16 p (addrField w))
  else if op = 0x3 then unusedZero (onlyAddrHalf w) (.write16 p (addrField w) (dataField w))
  else if op = 0x4 then decodeForce w
  else if op = 0x5 then
    withKind w (onlyKindVal w) (fun k => .setEnable p k (valField w == 1#1))
  else if op = 0x6 then
    withKind w (onlyKindVal w) (fun k => .setFlag p k (valField w == 1#1))
  else if op = 0x7 then withKind w (onlyKind w) (fun k => .intPending p k)
  else if op = 0x8 then unusedZero (onlyAddr w) (.classify p (addrField w))
  else .ok (.reserved p (opField w) (restField w))

/-! ## Address decode (R100, R101, R102) -/

/-- One match/mask row over a 16-bit address: `a` belongs to it when `(a & mask) == pattern`. -/
structure AddrRow (α : Type) where
  pattern : Addr
  mask : Addr
  tag : α
deriving DecidableEq, Repr

/-- `(a & mask) == match` (R100). -/
def rowHits {α : Type} (r : AddrRow α) (a : Addr) : Bool :=
  (a &&& r.mask) == r.pattern

/-- The 23 region rows of R100. -/
def regionRows : List (AddrRow Region) :=
  [⟨0x0000, 0xC000, .bankZero⟩, ⟨0x4000, 0xC000, .bankSwitchable⟩,
   ⟨0x8000, 0xE000, .videoRAM⟩, ⟨0xA000, 0xE000, .externalRAM⟩,
   ⟨0xC000, 0xF000, .workRAM1⟩, ⟨0xD000, 0xF000, .workRAM2⟩] ++
  [⟨0xE000, 0xF000, .echoRAM⟩, ⟨0xF000, 0xF800, .echoRAM⟩,
   ⟨0xF800, 0xFC00, .echoRAM⟩, ⟨0xFC00, 0xFE00, .echoRAM⟩,
   ⟨0xFE00, 0xFF80, .spriteAttributeTable⟩, ⟨0xFE80, 0xFFE0, .spriteAttributeTable⟩] ++
  [⟨0xFEA0, 0xFFE0, .notUsable⟩, ⟨0xFEC0, 0xFFC0, .notUsable⟩,
   ⟨0xFF00, 0xFF80, .ioRegisters⟩, ⟨0xFF80, 0xFFC0, .highRAM⟩,
   ⟨0xFFC0, 0xFFE0, .highRAM⟩, ⟨0xFFE0, 0xFFF0, .highRAM⟩] ++
  [⟨0xFFF0, 0xFFF8, .highRAM⟩, ⟨0xFFF8, 0xFFFC, .highRAM⟩,
   ⟨0xFFFC, 0xFFFE, .highRAM⟩, ⟨0xFFFE, 0xFFFF, .highRAM⟩,
   ⟨0xFFFF, 0xFFFF, .interruptEnable⟩]

/-- The rows of the opcode table's read cases, but for the fallback `RD.PLAIN`. -/
def readRows : List (AddrRow ReadCase) :=
  [⟨0x0000, 0xC000, .cart⟩, ⟨0x4000, 0xC000, .cart⟩, ⟨0xA000, 0xE000, .cart⟩,
   ⟨0xFF0F, 0xFFFF, .irq⟩, ⟨0xFFFF, 0xFFFF, .irq⟩, ⟨0x8000, 0xE000, .vram⟩,
   ⟨0xFE00, 0xFF80, .oam⟩, ⟨0xFE80, 0xFFE0, .oam⟩, ⟨0xFF00, 0xFFFF, .joyp⟩,
   ⟨0xFF04, 0xFFFF, .div⟩]

/-- The rows of the opcode table's write cases, but for the fallback `WR.PLAIN`. -/
def writeRows : List (AddrRow WriteCase) :=
  [⟨0x0000, 0xC000, .cart⟩, ⟨0x4000, 0xC000, .cart⟩, ⟨0xA000, 0xE000, .cart⟩,
   ⟨0xC000, 0xE000, .wram⟩, ⟨0xE000, 0xF000, .echo⟩, ⟨0xF000, 0xF800, .echo⟩,
   ⟨0xF800, 0xFC00, .echo⟩, ⟨0xFC00, 0xFE00, .echo⟩, ⟨0xFF04, 0xFFFF, .div⟩] ++
  [⟨0xFF40, 0xFFFF, .lcdc⟩, ⟨0xFF44, 0xFFFF, .ly⟩, ⟨0xFF41, 0xFFFF, .stat⟩,
   ⟨0xFF00, 0xFFFF, .joyp⟩, ⟨0x8000, 0xE000, .vram⟩, ⟨0xFE00, 0xFF80, .oam⟩,
   ⟨0xFE80, 0xFFE0, .oam⟩, ⟨0xFF46, 0xFFFF, .dma⟩]

/-- The read case of an address: the row that it meets, or the fallback (R101). -/
def readCaseOf (a : Addr) : ReadCase :=
  match readRows.find? (fun r => rowHits r a) with
  | some r => r.tag
  | none => .plain

/-- The write case of an address: the row that it meets, or the fallback (R102). -/
def writeCaseOf (a : Addr) : WriteCase :=
  match writeRows.find? (fun r => rowHits r a) with
  | some r => r.tag
  | none => .plain

/-- The dispatch case that the call `read(a)` selects, as an instruction. -/
def readInstr (a : Addr) : Instr :=
  match readCaseOf a with
  | .cart => .readCart a
  | .irq => .readIrq a
  | .vram => .readVram a
  | .oam => .readOam a
  | .joyp => .readJoyp
  | .div => .readDiv
  | .plain => .readPlain a

/-- The dispatch case that the call `write(a, d)` selects, as an instruction. -/
def writeInstr (a : Addr) (d : Byte) : Instr :=
  match writeCaseOf a with
  | .cart => .writeCart a d
  | .wram => .writeWram a d
  | .echo => .writeEcho a d
  | .div => .writeDiv d
  | .lcdc => .writeLcdc d
  | .ly => .writeLy d
  | .stat => .writeStat d
  | .joyp => .writeJoyp d
  | .vram => .writeVram a d
  | .oam => .writeOam a d
  | .dma => .writeDma d
  | .plain => .writePlain a d

/-- The decoder: every request gives an instruction or is rejected by name. -/
def decode : Request → Except Reject Instr
  | .word w => decodeWord w
  | .readAt a => .ok (readInstr a)
  | .writeAt a d => .ok (writeInstr a d)

/-! ## The encoder (R91, R92, R101, R102) -/

/-- The request word with these fields (R91). -/
def packWord (p : Port) (op : BitVec 4) (rest : BitVec 36) : RequestWord :=
  portBit p ++ op ++ rest

/-- The bits below `op` (R91). -/
def packRest (addr : Addr) (data : Half) (kind : BitVec 3) (val : Bool) : BitVec 36 :=
  addr ++ data ++ kind ++ BitVec.ofBool val

/-- The request of an instruction. -/
def encode : Instr → Request
  | .read p a => .word (packWord p 0x0#4 (packRest a 0#16 0#3 false))
  | .write p a d => .word (packWord p 0x1#4 (packRest a (d.setWidth 16) 0#3 false))
  | .read16 p a => .word (packWord p 0x2#4 (packRest a 0#16 0#3 false))
  | .write16 p a h => .word (packWord p 0x3#4 (packRest a h 0#3 false))
  | .forceWrite a d => .word (packWord .privileged 0x4#4 (packRest a (d.setWidth 16) 0#3 false))
  | .setEnable p k v => .word (packWord p 0x5#4 (packRest 0#16 0#16 (kindCode k) v))
  | .setFlag p k v => .word (packWord p 0x6#4 (packRest 0#16 0#16 (kindCode k) v))
  | .intPending p k => .word (packWord p 0x7#4 (packRest 0#16 0#16 (kindCode k) false))
  | .classify p a => .word (packWord p 0x8#4 (packRest a 0#16 0#3 false))
  | .reserved p op rest => .word (packWord p op rest)
  | .readCart a => .readAt a
  | .readIrq a => .readAt a
  | .readVram a => .readAt a
  | .readOam a => .readAt a
  | .readJoyp => .readAt 0xFF00#16
  | .readDiv => .readAt 0xFF04#16
  | .readPlain a => .readAt a
  | .writeCart a d => .writeAt a d
  | .writeWram a d => .writeAt a d
  | .writeEcho a d => .writeAt a d
  | .writeDiv d => .writeAt 0xFF04#16 d
  | .writeLcdc d => .writeAt 0xFF40#16 d
  | .writeLy d => .writeAt 0xFF44#16 d
  | .writeStat d => .writeAt 0xFF41#16 d
  | .writeJoyp d => .writeAt 0xFF00#16 d
  | .writeVram a d => .writeAt a d
  | .writeOam a d => .writeAt a d
  | .writeDma d => .writeAt 0xFF46#16 d
  | .writePlain a d => .writeAt a d

/-! ## Words numbered as spec/opcode_table.json numbers them -/

/-- A bare `ADDR16` word does not say whether it is a read or a write. It is taken as the first row of the table that it
meets, in the table's order, with the fallback rows last; a write's data byte, which the table gives no bits, is zero.
DESIGN CHOICE (log entry 6). -/
def tableAddrRequest (a : Addr) : Request :=
  if readRows.any (fun r => rowHits r a) then .readAt a
  else if writeRows.any (fun r => rowHits r a) then .writeAt a 0#8
  else .readAt a

/-- The request whose table bits are `w`: a row of at most 16 bits is an `ADDR16` row, any other a `REQ41` row, of which
bits 40:0 are the request word (R99) and the rest is padding to whole bytes (log entry 6). -/
def tableRequest (nbits w : Nat) : Request :=
  if nbits ≤ 16 then tableAddrRequest (BitVec.ofNat 16 w) else .word (BitVec.ofNat 41 w)

/-- What the decoder reads from an instruction whose table bits are `w`. -/
def decodeTableWord (nbits w : Nat) : Option Instr :=
  match decode (tableRequest nbits w) with
  | .ok i => some i
  | .error _ => none

end Sys2Proof
end

