-- ==== Sys2Proof/Machine/State.lean ====
section
/-! DEFINITION. The block's state as plain data: the store (R20), the port-event trace (R43), what a run shows (R23) and the
inputs of the step (R23, R26); the refusals of R241; and the construction state (R270). -/

namespace Sys2Proof.Machine

/-- The 65536-byte store (R20) in sparse form: the bytes that differ from the construction state's image, by address, in
strictly rising order (log entry 8). -/
abbrev Memory := List Host.Cell

/-- One call the block made on a collaborator's port (R43). A read entry also records the byte returned. -/
inductive PortEvent where
  /-- `CART_RD(a)`. -/
  | cartRd (addr : Addr) (answer : Byte)
  /-- `CART_WR(a, d)`. -/
  | cartWr (addr : Addr) (data : Byte)
  /-- `VRAM_RD(a)`. -/
  | vramRd (addr : Addr) (answer : Byte)
  /-- `VRAM_WR(a, d)`. -/
  | vramWr (addr : Addr) (data : Byte)
  /-- `OAM_RD(a)`. -/
  | oamRd (addr : Addr) (answer : Byte)
  /-- `OAM_WR(a, d)`. -/
  | oamWr (addr : Addr) (data : Byte)
  /-- `DIV_RD`. -/
  | divRd (answer : Byte)
  /-- `DIV_RESET`. -/
  | divReset
  /-- `JOYP_RD(sel)`. -/
  | joypRd (sel : Byte) (answer : Byte)
deriving DecidableEq, Repr

/-- What the block returns to the requester (R92 "response"). -/
inductive Response where
  /-- `WRITE`, `WRITE16`, `FORCE_WRITE`, `SET_ENABLE`, `SET_FLAG`: no response. -/
  | none
  /-- `READ`. -/
  | byte (b : Byte)
  /-- `READ16`. -/
  | half (h : Half)
  /-- `INT_PENDING`. -/
  | flag (b : Bool)
  /-- `CLASSIFY`: the 4-bit region code of R95. -/
  | region (code : BitVec 4)
deriving DecidableEq, Repr

/-- Reasons the machine stops with a fault: none. "Bus itself has no fallible operations" (R240), so the type is empty and
no step can answer with a fault (log entry 9; safe: there is nothing to prove about a fault that cannot be). -/
inductive Fault where
deriving DecidableEq, Repr

/-- Reasons a request has no meaning in the model (R98, R241). A refused request has no next state: safe, "it errs toward
unprovable". -/
inductive Refusal where
  /-- Raised by `exec` for an instruction that has no meaning yet; no arm raises it. Safe. -/
  | notModelled (mnemonic : String)
  /-- `ReservedOp`: raised by `RESERVED`, `op` 0x9..0xF. Safe. -/
  | reservedOp
  /-- `BadKind`: raised by `step` for an interrupt-view word with `kind` 5..7. Safe. -/
  | badKind
  /-- `NonZeroUnusedField`: raised by `step` for a word with a nonzero field its operation does not use. Safe. -/
  | nonZeroUnusedField
  /-- `ForceOnCpuPort`: raised by `step` for a `FORCE_WRITE` word with `port` = 0. Safe. -/
  | forceOnCpuPort
deriving DecidableEq, Repr

/-- The state of the block. `requests` and `answers` are its inputs (R23, R26), `responses` and `trace` what a run shows. -/
structure State where
  /-- The store (R20). -/
  store : Memory
  /-- The port-event trace, oldest first (R43). -/
  trace : List PortEvent
  /-- The requests still to be performed, in issue order (R23; log entry 3). -/
  requests : List Request
  /-- The collaborators' coming answers, in call order (R26; log entry 1). -/
  answers : List Byte
  /-- The model's own counter of free answers drawn so far (log entry 2). -/
  drawn : Nat
  /-- The responses given so far, oldest first (R23; log entry 7). -/
  responses : List Response
deriving DecidableEq, Repr

/-- The construction state (R270): every byte of the store is the seed image's, and the trace is empty. No request, answer
or response is there yet (log entries 1 to 3 and 7). -/
def State.reset : State :=
  { store := [], trace := [], requests := [], answers := [], drawn := 0, responses := [] }

end Sys2Proof.Machine
end

