-- ==== Sys2Proof/Machine/Ops.lean ====
section
/-! DEFINITION. The shared operations: the raw store, the port calls and their answers, the response, and taking the next
request. Taking an exception and returning from one have no operation here: the block raises nothing, saves nothing and
returns from nothing (R240, R246). -/

namespace Sys2Proof.Machine

/-! ## The raw store -/

/-- The seed list of R270, by address. -/
def seedTable : List Host.Cell :=
  [(0xFF00, 0xCF#8), (0xFF01, 0x00#8), (0xFF02, 0x7E#8), (0xFF04, 0x18#8), (0xFF05, 0x00#8),
   (0xFF06, 0x00#8), (0xFF07, 0xF8#8), (0xFF0F, 0xE1#8), (0xFF40, 0x91#8), (0xFF41, 0x81#8)] ++
  [(0xFF42, 0x00#8), (0xFF43, 0x00#8), (0xFF44, 0x91#8), (0xFF45, 0x00#8), (0xFF46, 0xFF#8),
   (0xFF47, 0xFC#8), (0xFF4A, 0x00#8), (0xFF4B, 0x00#8), (0xFFFF, 0x00#8)]

/-- The byte the construction state holds at an address: the seed, or 0x00 (R270). It is what an address that the store
does not list reads as. -/
def resetByte (n : Nat) : Byte :=
  match seedTable.find? (fun c => c.1 == n) with
  | some c => c.2
  | none => 0x00#8

/-- The byte at an address of a store. -/
def Memory.read (m : Memory) (n : Nat) : Byte :=
  match m.find? (fun c => c.1 == n) with
  | some c => c.2
  | none => resetByte n

/-- A cell put before the first cell of a larger address. -/
def Memory.insertCell (c : Host.Cell) : Memory → Memory
  | [] => [c]
  | e :: m => if c.1 < e.1 then c :: e :: m else e :: Memory.insertCell c m

/-- The byte at one address replaced ("only bytes are overwritten", R20). A byte equal to the construction state's is not
listed, so that equal stores are equal lists. -/
def Memory.write (m : Memory) (n : Nat) (b : Byte) : Memory :=
  let others := m.filter (fun c => c.1 != n)
  if b = resetByte n then others else Memory.insertCell (n, b) others

/-- The canonical form: addresses strictly rising and inside the address space, no cell equal to what its address would
read as unlisted. -/
abbrev Memory.wf (m : Memory) : Prop :=
  m.Pairwise (fun x y => x.1 < y.1) ∧ ∀ c ∈ m, c.1 < 65536 ∧ c.2 ≠ resetByte c.1

/-- `store[a]` (R9). -/
def byteAt (s : State) (a : Addr) : Byte := Memory.read s.store a.toNat

/-- `store[a] <- d` (R9). -/
def putByte (s : State) (a : Addr) (d : Byte) : State :=
  { s with store := Memory.write s.store a.toNat d }

/-! ## Port calls (R26, R43) -/

/-- One call appended to the port-event trace (R43). -/
def record (e : PortEvent) (s : State) : State := { s with trace := s.trace ++ [e] }

/-- The byte the next read call returns, an input of the step (R26): the environment's next answer, or a free value when the
environment holds none (log entries 1, 2). -/
def drawAnswer (s : State) : Byte × State :=
  match s.answers with
  | b :: rest => (b, { s with answers := rest })
  | [] => (Config.freeAnswer s.drawn, { s with drawn := s.drawn + 1 })

/-- A call that returns a byte: the event is recorded with the answer (R43). -/
def callRead (event : Byte → PortEvent) (s : State) : Byte × State :=
  ((drawAnswer s).1, record (event (drawAnswer s).1) (drawAnswer s).2)

/-- A call that returns nothing. -/
def callWrite (event : PortEvent) (s : State) : State := record event s

/-! ## Responses, refusals, requests -/

/-- The end of a request: its response is given (R92) and the block is ready for the next one (R70). -/
def respond (r : Response) (s : State) : Host.Outcome State Fault Refusal :=
  .next { s with responses := s.responses ++ [r] }

/-- The refusal of a word that the decoder rejects (R241). -/
def refusalOf : Reject → Refusal
  | .badKind => .badKind
  | .nonZeroUnusedField => .nonZeroUnusedField
  | .forceOnCpuPort => .forceOnCpuPort

/-- The next request, taken off the sequence (R23: "a step consumes the next request"). -/
def takeRequest (s : State) : Option (Request × State) :=
  match s.requests with
  | [] => none
  | r :: rest => some (r, { s with requests := rest })

/-- A request put where the next step takes it from. -/
def pushRequest (r : Request) (s : State) : State := { s with requests := r :: s.requests }

end Sys2Proof.Machine
end

