-- ==== Sys2Proof/Machine/Classifier.lean ====
section
/-! DEFINITION. The address classifier (R120 to R123), the region codes (R95), the owners (R61), and `CLASSIFY`. -/

namespace Sys2Proof.Machine

/-- `classify(a)` (R120). It depends on the address alone (R123). -/
def classify (a : Addr) : Region :=
  if a.toNat ≤ 0x3FFF then .bankZero
  else if a.toNat ≤ 0x7FFF then .bankSwitchable
  else if a.toNat ≤ 0x9FFF then .videoRAM
  else if a.toNat ≤ 0xBFFF then .externalRAM
  else if a.toNat ≤ 0xCFFF then .workRAM1
  else if a.toNat ≤ 0xDFFF then .workRAM2
  else if a.toNat ≤ 0xFDFF then .echoRAM
  else if a.toNat ≤ 0xFE9F then .spriteAttributeTable
  else if a.toNat ≤ 0xFEFF then .notUsable
  else if a.toNat ≤ 0xFF7F then .ioRegisters
  else if a.toNat ≤ 0xFFFE then .highRAM
  else .interruptEnable

/-- The 4-bit code of a region in the response of `CLASSIFY` (R95). -/
def regionCode : Region → BitVec 4
  | .bankZero => 0#4
  | .bankSwitchable => 1#4
  | .videoRAM => 2#4
  | .externalRAM => 3#4
  | .workRAM1 => 4#4
  | .workRAM2 => 5#4
  | .echoRAM => 6#4
  | .spriteAttributeTable => 7#4
  | .notUsable => 8#4
  | .ioRegisters => 9#4
  | .highRAM => 10#4
  | .interruptEnable => 11#4

/-- The regions whose bytes the cartridge holds. -/
def isCartRegion (r : Region) : Bool :=
  r == .bankZero || r == .bankSwitchable || r == .externalRAM

/-- The regions the bus is authoritative for (R21, R61): all but the cartridge's and the video unit's. -/
def busOwned (r : Region) : Bool :=
  !(isCartRegion r || r == .videoRAM || r == .spriteAttributeTable)

/-- `CLASSIFY a` (R120): the response is the region's 4-bit code (R92, R95), and no state is read or written but for it. -/
def execClassify (_port : Port) (a : Addr) (s : State) : Host.Outcome State Fault Refusal :=
  respond (.region (regionCode (classify a))) s

end Sys2Proof.Machine
end

