-- ==== Sys2Proof/Machine/Flags.lean ====
section
/-! DEFINITION. The interrupt bits, the block's only flags (R37): the forced upper bits, one bit's mask, setting, clearing
and testing it. -/

namespace Sys2Proof.Machine

/-- `IRQ_FORCED_ONES`: bits 7:5 (R5). -/
def irqForcedOnes : Byte := 0b11100000#8

/-- An interrupt register as `read` shows it (R142). -/
def irqView (b : Byte) : Byte := irqForcedOnes ||| b

/-- The bit index of a kind (R37, R96). -/
def kindIndex (k : Kind) : Nat := (kindCode k).toNat

/-- `1 << k` (R221). -/
def irqMask (k : Kind) : Byte := 1#8 <<< kindIndex k

/-- Bit `k` set or cleared, the others kept (R221). -/
def withIrqBit (b : Byte) (k : Kind) (v : Bool) : Byte :=
  if v then b ||| irqMask k else b &&& ~~~(irqMask k)

/-- `(b >> k) & 1 == 1` (R223). -/
def irqBit (b : Byte) (k : Kind) : Bool := (b >>> kindIndex k) &&& 1#8 == 1#8

end Sys2Proof.Machine
end

