-- ==== Sys2Proof/Machine/Operands.lean ====
section
/-! DEFINITION. The parameters of R5, the addresses of the named registers (R27 to R34) and every way the spec assembles an
address or a byte: the wrap, the two bytes of a 16-bit access, the echo addresses, the DMA addresses and the partial
writes. -/

namespace Sys2Proof.Machine

/-! ## Register addresses -/

/-- JoypadRegister (R27). -/
def joypAddr : Addr := 0xFF00#16

/-- TimerDividerRegister, DIV (R28). -/
def divAddr : Addr := 0xFF04#16

/-- InterruptFlag, IF (R29). -/
def ifAddr : Addr := 0xFF0F#16

/-- LCDControlRegister, LCDC (R30). -/
def lcdcAddr : Addr := 0xFF40#16

/-- STATRegister (R31). -/
def statAddr : Addr := 0xFF41#16

/-- LYRegister (R32). -/
def lyAddr : Addr := 0xFF44#16

/-- DMARegister (R33). -/
def dmaAddr : Addr := 0xFF46#16

/-- InterruptEnable, IE (R34). -/
def ieAddr : Addr := 0xFFFF#16

/-! ## Parameters -/

/-- `STORE_SIZE` (R5). -/
def storeSize : Nat := 65536

/-- `ECHO_OFFSET` (R5). -/
def echoOffset : Addr := 0x2000#16

/-- `ECHO_SRC_HI`: the last work-RAM address that has an echo (R5, R172). -/
def echoSrcHi : Addr := 0xDDFF#16

/-- `DMA_LEN` (R5). -/
def dmaLen : Nat := 160

/-- The first address of `DMA_DST` (R5). -/
def dmaDst : Addr := 0xFE00#16

/-- `STAT_WRITABLE` (R5). -/
def statWritable : Byte := 0b11111000#8

/-- `JOYP_WRITABLE` (R5). -/
def joypWritable : Byte := 0b11110000#8

/-! ## Addresses and 16-bit data -/

/-- `(a + 1) mod 65536` (R8, R94). -/
def nextAddr (a : Addr) : Addr := a + 1#16

/-- `w[7:0]`, written at the lower address (R64, R94). -/
def lowByte (w : Half) : Byte := w.extractLsb' 0 8

/-- `w[15:8]`, written at the next address (R64, R94). -/
def highByte (w : Half) : Byte := w.extractLsb' 8 8

/-- The concatenation of a high and a low byte (R7, R94). -/
def joinBytes (hi lo : Byte) : Half := hi ++ lo

/-- The echo of a work-RAM address (R62, R172). -/
def echoOf (a : Addr) : Addr := a + echoOffset

/-- The work-RAM address that an echo address mirrors (R62, R173). -/
def workOf (a : Addr) : Addr := a - echoOffset

/-- `zext_16(d) * 0x100`, the DMA source (R97). -/
def dmaSource (d : Byte) : Addr := d.setWidth 16 * 0x100#16

/-- `base + i`. -/
def offsetAddr (base : Addr) (i : Nat) : Addr := base + BitVec.ofNat 16 i

/-! ## Partial writes and the LCDC rule -/

/-- The bits of `d` under the mask, the bits of `old` elsewhere (R177, R178). -/
def mergeBits (mask d old : Byte) : Byte := (d &&& mask) ||| (old &&& ~~~mask)

/-- The display-enable bit, bit 7 of LCDC (R30). -/
def displayOn (b : Byte) : Bool := b.getLsbD 7

/-- The display was on and stays on: the one case without the LCD-off reset (R175). -/
def staysOn (old new : Byte) : Bool := displayOn old && displayOn new

end Sys2Proof.Machine
end

