-- ==== Sys2Proof/Machine/ReadPath.lean ====
section
/-! DEFINITION. The read path: the seven cases (R141 to R147), `read` (R140), `read_16bit` (R150), and the meanings of the
read requests and read dispatch cases. -/

namespace Sys2Proof.Machine

/-! ## The seven cases: the byte returned and the state after -/

/-- `RD.CART`: `Cartridge.read(a)` (R141). -/
def readCart (a : Addr) (s : State) : Byte × State := callRead (.cartRd a) s

/-- `RD.IRQ`: bits 7:5 read as 1 (R142). -/
def readIrq (a : Addr) (s : State) : Byte × State := (irqView (byteAt s a), s)

/-- `RD.VRAM`: `Video.read_vram(a)` (R143). -/
def readVram (a : Addr) (s : State) : Byte × State := callRead (.vramRd a) s

/-- `RD.OAM`: `Video.read_oam(a)` (R144). -/
def readOam (a : Addr) (s : State) : Byte × State := callRead (.oamRd a) s

/-- `RD.JOYP`: `Input.read(sel)` with the full stored byte, unmasked (R145, decision D5). -/
def readJoyp (s : State) : Byte × State := callRead (.joypRd (byteAt s joypAddr)) s

/-- `RD.DIV`: `Timer.read_divider()` (R146). -/
def readDiv (s : State) : Byte × State := callRead .divRd s

/-- `RD.PLAIN`: the stored byte (R147). -/
def readPlain (a : Addr) (s : State) : Byte × State := (byteAt s a, s)

/-- `read(a)`, in the source's order (R140). -/
def busRead (a : Addr) (s : State) : Byte × State :=
  if isCartRegion (classify a) then readCart a s
  else if a = ieAddr ∨ a = ifAddr then readIrq a s
  else if classify a = .videoRAM then readVram a s
  else if classify a = .spriteAttributeTable then readOam a s
  else if a = joypAddr then readJoyp s
  else if a = divAddr then readDiv s
  else readPlain a s

/-- `read_16bit(a)`: the low byte first, both through the full path (R150, decision D6). -/
def busRead16 (a : Addr) (s : State) : Half × State :=
  let lo := busRead a s
  let hi := busRead (nextAddr a) lo.2
  (joinBytes hi.1 lo.1, hi.2)

/-- A read that ends the request with its byte as the response. -/
def respondByte (r : Byte × State) : Host.Outcome State Fault Refusal := respond (.byte r.1) r.2

/-! ## Meanings -/

/-- `READ a` (R140), the same on either port (R247). -/
def execRead (_port : Port) (a : Addr) (s : State) : Host.Outcome State Fault Refusal :=
  respondByte (busRead a s)

/-- `READ16 a` (R150). -/
def execRead16 (_port : Port) (a : Addr) (s : State) : Host.Outcome State Fault Refusal :=
  respond (.half (busRead16 a s).1) (busRead16 a s).2

/-- Case `RD.CART` (R141). -/
def execReadCart (a : Addr) (s : State) : Host.Outcome State Fault Refusal := respondByte (readCart a s)

/-- Case `RD.IRQ` (R142). -/
def execReadIrq (a : Addr) (s : State) : Host.Outcome State Fault Refusal := respondByte (readIrq a s)

/-- Case `RD.VRAM` (R143). -/
def execReadVram (a : Addr) (s : State) : Host.Outcome State Fault Refusal := respondByte (readVram a s)

/-- Case `RD.OAM` (R144). -/
def execReadOam (a : Addr) (s : State) : Host.Outcome State Fault Refusal := respondByte (readOam a s)

/-- Case `RD.JOYP` (R145). -/
def execReadJoyp (s : State) : Host.Outcome State Fault Refusal := respondByte (readJoyp s)

/-- Case `RD.DIV` (R146). -/
def execReadDiv (s : State) : Host.Outcome State Fault Refusal := respondByte (readDiv s)

/-- Case `RD.PLAIN` (R147). -/
def execReadPlain (a : Addr) (s : State) : Host.Outcome State Fault Refusal := respondByte (readPlain a s)

end Sys2Proof.Machine
end

