-- ==== Sys2Proof/Machine/WritePath.lean ====
section
/-! DEFINITION. The write path: the twelve cases (R171 to R182), `write` (R170), `write_16bit` (R185), `force_write` (R186),
and the meanings of the write requests and write dispatch cases. -/

namespace Sys2Proof.Machine

/-! ## The twelve cases: the state after -/

/-- `WR.CART`: forwarded, nothing stored (R171). -/
def writeCart (a : Addr) (d : Byte) (s : State) : State := callWrite (.cartWr a d) s

/-- `WR.WRAM`: stored, and mirrored up to 0xDDFF (R172). -/
def writeWram (a : Addr) (d : Byte) (s : State) : State :=
  if a.toNat ≤ echoSrcHi.toNat then putByte (putByte s a d) (echoOf a) d else putByte s a d

/-- `WR.ECHO`: stored, and mirrored into work RAM (R173, conflict C1). -/
def writeEcho (a : Addr) (d : Byte) (s : State) : State := putByte (putByte s a d) (workOf a) d

/-- `WR.DIV`: the timer is reset, the data ignored, nothing stored (R174). -/
def writeDiv (_d : Byte) (s : State) : State := callWrite .divReset s

/-- The LCD-off reset: LY and the low bits of STAT cleared by raw stores (R175, decision D7). -/
def lcdOffReset (s : State) : State :=
  let s1 := putByte s lyAddr 0x00#8
  putByte s1 statAddr (byteAt s1 statAddr &&& statWritable)

/-- `WR.LCDC`: all 8 bits stored, then the LCD-off reset unless the display was on and stays on (R175, conflict C2). -/
def writeLcdc (d : Byte) (s : State) : State :=
  if staysOn (byteAt s lcdcAddr) d then putByte s lcdcAddr d else lcdOffReset (putByte s lcdcAddr d)

/-- `WR.LY`: discarded (R176). -/
def writeLy (_d : Byte) (s : State) : State := s

/-- `WR.STAT`: the high 5 bits replaced (R177). -/
def writeStat (d : Byte) (s : State) : State :=
  putByte s statAddr (mergeBits statWritable d (byteAt s statAddr))

/-- `WR.JOYP`: the high 4 bits replaced (R178). -/
def writeJoyp (d : Byte) (s : State) : State :=
  putByte s joypAddr (mergeBits joypWritable d (byteAt s joypAddr))

/-- `WR.VRAM`: forwarded, nothing stored (R179). -/
def writeVram (a : Addr) (d : Byte) (s : State) : State := callWrite (.vramWr a d) s

/-- `WR.OAM`: forwarded, nothing stored (R180). -/
def writeOam (a : Addr) (d : Byte) (s : State) : State := callWrite (.oamWr a d) s

/-- `n` calls of the DMA copy from index `i` on, each with the byte the raw store holds (R181 step 3, conflict C3). -/
def dmaCopy (src : Addr) : Nat → Nat → State → State
  | 0, _, s => s
  | n + 1, i, s =>
    dmaCopy src n (i + 1)
      (callWrite (.oamWr (offsetAddr dmaDst i) (byteAt s (offsetAddr src i))) s)

/-- `WR.DMA`: stored, then the 160-byte copy (R181). -/
def writeDma (d : Byte) (s : State) : State :=
  dmaCopy (dmaSource d) dmaLen 0 (putByte s dmaAddr d)

/-- `WR.PLAIN`: all 8 bits stored (R182). -/
def writePlain (a : Addr) (d : Byte) (s : State) : State := putByte s a d

/-- `write(a, d)`, in the source's order (R170). -/
def busWrite (a : Addr) (d : Byte) (s : State) : State :=
  if isCartRegion (classify a) then writeCart a d s
  else if classify a = .workRAM1 ∨ classify a = .workRAM2 then writeWram a d s
  else if classify a = .echoRAM then writeEcho a d s
  else if a = divAddr then writeDiv d s
  else if a = lcdcAddr then writeLcdc d s
  else if a = lyAddr then writeLy d s
  else if a = statAddr then writeStat d s
  else if a = joypAddr then writeJoyp d s
  else if classify a = .videoRAM then writeVram a d s
  else if classify a = .spriteAttributeTable then writeOam a d s
  else if a = dmaAddr then writeDma d s
  else writePlain a d s

/-- `write_16bit(a, w)`: the low byte first, both through the full path (R185, decision D6). -/
def busWrite16 (a : Addr) (w : Half) (s : State) : State :=
  busWrite (nextAddr a) (highByte w) (busWrite a (lowByte w) s)

/-- `force_write(a, d)`: the raw store, past every rule (R186). -/
def forceWrite (a : Addr) (d : Byte) (s : State) : State := putByte s a d

/-- A write ends the request with no response. -/
def respondNone (s : State) : Host.Outcome State Fault Refusal := respond .none s

/-! ## Meanings -/

/-- `WRITE a, d` (R170), the same on either port (R247). -/
def execWrite (_port : Port) (a : Addr) (d : Byte) (s : State) : Host.Outcome State Fault Refusal :=
  respondNone (busWrite a d s)

/-- `WRITE16 a, w` (R185). -/
def execWrite16 (_port : Port) (a : Addr) (w : Half) (s : State) : Host.Outcome State Fault Refusal :=
  respondNone (busWrite16 a w s)

/-- `priv: FORCE_WRITE a, d` (R186). The decoder has already refused the CPU-facing port (R98 (d), R247). -/
def execForceWrite (a : Addr) (d : Byte) (s : State) : Host.Outcome State Fault Refusal :=
  respondNone (forceWrite a d s)

/-- Case `WR.CART` (R171). -/
def execWriteCart (a : Addr) (d : Byte) (s : State) : Host.Outcome State Fault Refusal :=
  respondNone (writeCart a d s)

/-- Case `WR.WRAM` (R172). -/
def execWriteWram (a : Addr) (d : Byte) (s : State) : Host.Outcome State Fault Refusal :=
  respondNone (writeWram a d s)

/-- Case `WR.ECHO` (R173). -/
def execWriteEcho (a : Addr) (d : Byte) (s : State) : Host.Outcome State Fault Refusal :=
  respondNone (writeEcho a d s)

/-- Case `WR.DIV` (R174). -/
def execWriteDiv (d : Byte) (s : State) : Host.Outcome State Fault Refusal := respondNone (writeDiv d s)

/-- Case `WR.LCDC` (R175). -/
def execWriteLcdc (d : Byte) (s : State) : Host.Outcome State Fault Refusal := respondNone (writeLcdc d s)

/-- Case `WR.LY` (R176). -/
def execWriteLy (d : Byte) (s : State) : Host.Outcome State Fault Refusal := respondNone (writeLy d s)

/-- Case `WR.STAT` (R177). -/
def execWriteStat (d : Byte) (s : State) : Host.Outcome State Fault Refusal := respondNone (writeStat d s)

/-- Case `WR.JOYP` (R178). -/
def execWriteJoyp (d : Byte) (s : State) : Host.Outcome State Fault Refusal := respondNone (writeJoyp d s)

/-- Case `WR.VRAM` (R179). -/
def execWriteVram (a : Addr) (d : Byte) (s : State) : Host.Outcome State Fault Refusal :=
  respondNone (writeVram a d s)

/-- Case `WR.OAM` (R180). -/
def execWriteOam (a : Addr) (d : Byte) (s : State) : Host.Outcome State Fault Refusal :=
  respondNone (writeOam a d s)

/-- Case `WR.DMA` (R181). -/
def execWriteDma (d : Byte) (s : State) : Host.Outcome State Fault Refusal := respondNone (writeDma d s)

/-- Case `WR.PLAIN` (R182). -/
def execWritePlain (a : Addr) (d : Byte) (s : State) : Host.Outcome State Fault Refusal :=
  respondNone (writePlain a d s)

end Sys2Proof.Machine
end

