-- ==== Sys2Proof/Machine/InterruptView.lean ====
section
/-! DEFINITION. The interrupt register view, layered on the full `read` and `write` (R221 to R224), and the choice of a
pending kind by a requester that brings its own priority (R245). -/

namespace Sys2Proof.Machine

/-- Read an interrupt register, set or clear one bit, write it back (R221, R222, R75). -/
def rewriteIrq (reg : Addr) (k : Kind) (v : Bool) (s : State) : State :=
  let r := busRead reg s
  busWrite reg (withIrqBit r.1 k v) r.2

/-- `interrupt_pending(k)`: IE is read first, then IF (R223, decision D6). -/
def readPending (k : Kind) (s : State) : Bool × State :=
  let e := busRead ieAddr s
  let f := busRead ifAddr e.2
  (irqBit (e.1 &&& f.1) k, f.2)

/-- The model's own function (log entry 10), not an operation of the block, which computes no priority: the first pending kind in
the order `irqPriority`, as a requester would pick it. "A model that needs a priority takes it as the parameter `irqPriority`"
(R245, decision D11). No meaning uses it. -/
def firstPending (irqPriority : List Kind) (s : State) : Option Kind :=
  irqPriority.find? (fun k => (readPending k s).1)

/-- `SET_ENABLE k, v` (R221). -/
def execSetEnable (_port : Port) (k : Kind) (v : Bool) (s : State) : Host.Outcome State Fault Refusal :=
  respondNone (rewriteIrq ieAddr k v s)

/-- `SET_FLAG k, v` (R222). -/
def execSetFlag (_port : Port) (k : Kind) (v : Bool) (s : State) : Host.Outcome State Fault Refusal :=
  respondNone (rewriteIrq ifAddr k v s)

/-- `INT_PENDING k` (R223). -/
def execIntPending (_port : Port) (k : Kind) (s : State) : Host.Outcome State Fault Refusal :=
  respond (.flag (readPending k s).1) (readPending k s).2

end Sys2Proof.Machine
end

