-- ==== Sys2Proof/Machine/Reserved.lean ====
section
/-! DEFINITION. The reserved operation codes (R98 (a), R241). -/

namespace Sys2Proof.Machine

/-- `RESERVED`: refused, "has no meaning in the model" (R98). -/
def execReserved (_port : Port) (_op : BitVec 4) (_rest : BitVec 36) (_s : State) :
    Host.Outcome State Fault Refusal :=
  .refused .reservedOp

end Sys2Proof.Machine
end

