-- ==== Sys2Proof/Machine/Dispatch.lean ====
section
/-! DEFINITION. The meaning of every instruction, one arm each. -/

namespace Sys2Proof.Machine

def exec (i : Instr) (s : State) : Host.Outcome State Fault Refusal :=
  match i with
  | .read p a => Sys2Proof.Machine.execRead p a s
  | .write p a d => Sys2Proof.Machine.execWrite p a d s
  | .read16 p a => Sys2Proof.Machine.execRead16 p a s
  | .write16 p a w => Sys2Proof.Machine.execWrite16 p a w s
  | .forceWrite a d => Sys2Proof.Machine.execForceWrite a d s
  | .setEnable p k v => Sys2Proof.Machine.execSetEnable p k v s
  | .setFlag p k v => Sys2Proof.Machine.execSetFlag p k v s
  | .intPending p k => Sys2Proof.Machine.execIntPending p k s
  | .classify p a => Sys2Proof.Machine.execClassify p a s
  | .reserved p op rest => Sys2Proof.Machine.execReserved p op rest s
  -- the read dispatch cases (R101)
  | .readCart a => Sys2Proof.Machine.execReadCart a s
  | .readIrq a => Sys2Proof.Machine.execReadIrq a s
  | .readVram a => Sys2Proof.Machine.execReadVram a s
  | .readOam a => Sys2Proof.Machine.execReadOam a s
  | .readJoyp => Sys2Proof.Machine.execReadJoyp s
  | .readDiv => Sys2Proof.Machine.execReadDiv s
  | .readPlain a => Sys2Proof.Machine.execReadPlain a s
  -- the write dispatch cases (R102)
  | .writeCart a d => Sys2Proof.Machine.execWriteCart a d s
  | .writeWram a d => Sys2Proof.Machine.execWriteWram a d s
  | .writeEcho a d => Sys2Proof.Machine.execWriteEcho a d s
  | .writeDiv d => Sys2Proof.Machine.execWriteDiv d s
  | .writeLcdc d => Sys2Proof.Machine.execWriteLcdc d s
  | .writeLy d => Sys2Proof.Machine.execWriteLy d s
  | .writeStat d => Sys2Proof.Machine.execWriteStat d s
  | .writeJoyp d => Sys2Proof.Machine.execWriteJoyp d s
  | .writeVram a d => Sys2Proof.Machine.execWriteVram a d s
  | .writeOam a d => Sys2Proof.Machine.execWriteOam a d s
  | .writeDma d => Sys2Proof.Machine.execWriteDma d s
  | .writePlain a d => Sys2Proof.Machine.execWritePlain a d s

end Sys2Proof.Machine
end

