-- ==== Sys2Proof/Machine/Step.lean ====
section
/-! DEFINITION. One step: the next request is taken, decoded and performed whole (R23, R70). -/

namespace Sys2Proof.Machine

/-- One step of the block. With no request waiting, nobody calls the block and it stays as it is (log entry 3). -/
def step (s : State) : Host.Outcome State Fault Refusal :=
  match takeRequest s with
  | none => .next s
  | some (r, s') =>
    match decode r with
    | .ok i => exec i s'
    | .error e => .refused (refusalOf e)

/-- `s` with the instruction of a table word as its very next request (log entries 3, 6). -/
def State.withFetchWord (s : State) (nbits w : Nat) : State := pushRequest (tableRequest nbits w) s

end Sys2Proof.Machine
end

