-- ==== Sys2Proof/Machine/Assembler.lean ====
section
/-! DEFINITION. The textual syntax of request sequences (R103, decision D12): one request a line,
`[priv:] MNEMONIC operands`, operands separated by commas. -/

namespace Sys2Proof.Machine

/-! ## Lines and operands -/

/-- A line cut at spaces, each comma a token of its own. `word` holds the characters of the token begun, last first. -/
def tokens (word : List Char) : List Char → List (List Char)
  | [] => if word.isEmpty then [] else [word.reverse]
  | c :: cs =>
    let begun := if word.isEmpty then [] else [word.reverse]
    if c = ' ' then begun ++ tokens [] cs
    else if c = ',' then begun ++ [[',']] ++ tokens [] cs
    else tokens (c :: word) cs

/-- The digits of the spec's hexadecimal numbers (R7), each at the place of its value. -/
def hexRow : List Char := "0123456789ABCDEF".toList

/-- The value of a hexadecimal digit, its place in `hexRow`; capitals and small letters alike (log entry 12). -/
def hexDigit (c : Char) : Option Nat := hexRow.findIdx? (fun x => x == c.toUpper)

/-- Hexadecimal digits read after the value `acc`. -/
def hexDigits (acc : Nat) : List Char → Option Nat
  | [] => some acc
  | c :: cs =>
    match hexDigit c with
    | some d => hexDigits (acc * 16 + d) cs
    | none => none

/-- A number: `0x` and at least one digit, below `bound`. -/
def number (bound : Nat) : List Char → Option Nat
  | '0' :: 'x' :: c :: cs =>
    match hexDigits 0 (c :: cs) with
    | some n => if n < bound then some n else none
    | none => none
  | _ => none

/-- An address operand `a`. -/
def addrOperand (t : List Char) : Option Addr := (number 65536 t).map (BitVec.ofNat 16)

/-- A byte operand `b`. -/
def byteOperand (t : List Char) : Option Byte := (number 256 t).map (BitVec.ofNat 8)

/-- A 16-bit operand `w`. -/
def halfOperand (t : List Char) : Option Half := (number 65536 t).map (BitVec.ofNat 16)

/-- A kind by its name. -/
def kindOperand (t : List Char) : Option Kind :=
  if t = "VBlank".toList then some .vblank
  else if t = "LCDStat".toList then some .lcdStat
  else if t = "Timer".toList then some .timer
  else if t = "Serial".toList then some .serial
  else if t = "Joypad".toList then some .joypad
  else none

/-- A value `v`, written `1` or `0` as in the spec's examples. -/
def valOperand (t : List Char) : Option Bool :=
  if t = ['1'] then some true else if t = ['0'] then some false else none

/-! ## The nine forms -/

/-- An operation with one operand. -/
def oneOperand (p : Port) (m t : List Char) : Option Instr :=
  if m = "READ".toList then (addrOperand t).map (.read p)
  else if m = "READ16".toList then (addrOperand t).map (.read16 p)
  else if m = "INT_PENDING".toList then (kindOperand t).map (.intPending p)
  else if m = "CLASSIFY".toList then (addrOperand t).map (.classify p)
  else none

/-- An operation with two operands. `FORCE_WRITE` has its form on the privileged port only. -/
def twoOperands (p : Port) (m t u : List Char) : Option Instr :=
  if m = "WRITE".toList then (addrOperand t).bind (fun a => (byteOperand u).map (.write p a))
  else if m = "WRITE16".toList then (addrOperand t).bind (fun a => (halfOperand u).map (.write16 p a))
  else if m = "FORCE_WRITE".toList then
    match p with
    | .privileged => (addrOperand t).bind (fun a => (byteOperand u).map (.forceWrite a))
    | .cpu => none
  else if m = "SET_ENABLE".toList then
    (kindOperand t).bind (fun k => (valOperand u).map (.setEnable p k))
  else if m = "SET_FLAG".toList then
    (kindOperand t).bind (fun k => (valOperand u).map (.setFlag p k))
  else none

/-- The instruction of a line after its `priv:` prefix. -/
def formOf (p : Port) : List (List Char) → Option Instr
  | [m, t] => oneOperand p m t
  | [m, t, c, u] => if c = [','] then twoOperands p m t u else none
  | _ => none

/-- The instruction a line of text stands for. -/
def parseLine (line : String) : Option Instr :=
  match tokens [] line.toList with
  | t :: rest => if t = "priv:".toList then formOf .privileged rest else formOf .cpu (t :: rest)
  | [] => none

/-- The request of a line of text. -/
def assemble (line : String) : Option Request := (parseLine line).map encode

end Sys2Proof.Machine
end

