-- ==== Sys2Proof/Safety.lean ====
section
/-! DEFINITION. The terms the statements use: what a request does and leaves alone, what the next instruction is, which
addresses an instruction names as targets, and the spec's whole-machine conditions (authority R21, echo mirror R42). -/

namespace Sys2Proof.Machine

/-! ## Effects and frames -/

/-- The inputs of the step are where they were: no request was taken, no answer drawn. -/
def sameInputs (s t : State) : Prop :=
  t.requests = s.requests ∧ t.answers = s.answers ∧ t.drawn = s.drawn

/-- The whole change from `s` to `t`: exactly the listed bytes are stored and every other address reads as before, exactly
the listed port calls are appended to the trace, one response is given, and the inputs are untouched. -/
structure Effect (s t : State) (bytes : List (Addr × Byte)) (events : List PortEvent) (resp : Response) : Prop where
  stored : ∀ c ∈ bytes, byteAt t c.1 = c.2
  others : ∀ a, (∀ c ∈ bytes, a ≠ c.1) → byteAt t a = byteAt s a
  trace : t.trace = s.trace ++ events
  responses : t.responses = s.responses ++ [resp]
  inputs : sameInputs s t

/-- The instruction answers a next state, and its whole effect is the one given. -/
def Completes (i : Instr) (s : State) (bytes : List (Addr × Byte)) (events : List PortEvent) (resp : Response) : Prop :=
  ∃ t, exec i s = .next t ∧ Effect s t bytes events resp

/-- The byte `b` is the collaborator's next answer: the environment's, or a free value where the environment holds none
(R26). -/
def Draws (s : State) (b : Byte) (t : State) : Prop :=
  (∃ rest, s.answers = b :: rest ∧ t.answers = rest ∧ t.drawn = s.drawn) ∨
    (s.answers = [] ∧ b = Config.freeAnswer s.drawn ∧ t.answers = [] ∧ t.drawn = s.drawn + 1)

/-- The instruction answers a next state: it makes one port call, whose answer is drawn, recorded and returned unmodified,
and changes no byte of the store. -/
def ReadsPort (i : Instr) (s : State) (event : Byte → PortEvent) : Prop :=
  ∃ b t, exec i s = .next t ∧ Draws s b t ∧ (∀ a, byteAt t a = byteAt s a) ∧
    t.trace = s.trace ++ [event b] ∧ t.responses = s.responses ++ [.byte b] ∧ t.requests = s.requests

/-! ## The next instruction -/

/-- The instruction the next step runs, if a request waits and the decoder accepts it. -/
def nextInstr (s : State) : Option Instr :=
  match takeRequest s with
  | some (r, _) => match decode r with
    | .ok i => some i
    | .error _ => none
  | none => none

/-- The instruction names `a` as an address that it writes. The echo byte of a mirrored write and the bytes of the LCD-off
reset are not named. -/
def namesTarget (a : Addr) : Instr → Bool
  | .read _ _ => false
  | .write _ x _ => x == a
  | .read16 _ _ => false
  | .write16 _ x _ => x == a || nextAddr x == a
  | .forceWrite x _ => x == a
  | .setEnable _ _ _ => a == ieAddr
  | .setFlag _ _ _ => a == ifAddr
  | .intPending _ _ => false
  | .classify _ _ => false
  | .reserved _ _ _ => false
  | .readCart _ => false
  | .readIrq _ => false
  | .readVram _ => false
  | .readOam _ => false
  | .readJoyp => false
  | .readDiv => false
  | .readPlain _ => false
  | .writeCart x _ => x == a
  | .writeWram x _ => x == a
  | .writeEcho x _ => x == a
  | .writeDiv _ => a == divAddr
  | .writeLcdc _ => a == lcdcAddr
  | .writeLy _ => a == lyAddr
  | .writeStat _ => a == statAddr
  | .writeJoyp _ => a == joypAddr
  | .writeVram x _ => x == a
  | .writeOam x _ => x == a
  | .writeDma _ => a == dmaAddr
  | .writePlain x _ => x == a

/-- The instruction is a `FORCE_WRITE` to `a` (R186). -/
def forcesAt (a : Addr) (i : Instr) : Prop := ∃ d, i = .forceWrite a d

/-! ## The words of R98 -/

/-- R98 (a): `op` is 0x9..0xF. -/
abbrev reservedOpWord (w : RequestWord) : Prop := 9 ≤ (opField w).toNat

/-- R98 (b): an interrupt-view operation with `kind` 5..7. -/
abbrev badKindWord (w : RequestWord) : Prop :=
  ((opField w).toNat = 5 ∨ (opField w).toNat = 6 ∨ (opField w).toNat = 7) ∧ 5 ≤ (kindField w).toNat

/-- R98 (c): a field that the operation's row of R92 marks "0" is not zero. -/
abbrev unusedNonZeroWord (w : RequestWord) : Prop :=
  (((opField w).toNat = 0 ∨ (opField w).toNat = 2 ∨ (opField w).toNat = 8) ∧
      (dataField w ≠ 0 ∨ kindField w ≠ 0 ∨ valField w ≠ 0)) ∨
    (((opField w).toNat = 1 ∨ (opField w).toNat = 4) ∧
      (dataHigh w ≠ 0 ∨ kindField w ≠ 0 ∨ valField w ≠ 0)) ∨
    ((opField w).toNat = 3 ∧ (kindField w ≠ 0 ∨ valField w ≠ 0)) ∨
    (((opField w).toNat = 5 ∨ (opField w).toNat = 6) ∧ (addrField w ≠ 0 ∨ dataField w ≠ 0)) ∨
    ((opField w).toNat = 7 ∧ (addrField w ≠ 0 ∨ dataField w ≠ 0 ∨ valField w ≠ 0))

/-- R98 (d): `FORCE_WRITE` with `port` = 0. -/
abbrev forceOnCpuWord (w : RequestWord) : Prop := (opField w).toNat = 4 ∧ portField w = 0

/-! ## Whole-machine conditions -/

/-- Bit `k` is set in both IE and IF (R223). -/
def pendingBits (s : State) (k : Kind) : Prop :=
  (byteAt s 0xFFFF#16).getLsbD (kindIndex k) = true ∧ (byteAt s 0xFF0F#16).getLsbD (kindIndex k) = true

/-- The bytes of `store` that the block is not authoritative for (R21, R38). -/
def nonAuthoritative (a : Addr) : Bool := !busOwned (classify a)

/-- An address whose read or write goes to a collaborator's port (R67). -/
def portAddr (a : Addr) : Bool :=
  isCartAddr a || isVramAddr a || isOamAddr a || a == joypAddr || a == divAddr

/-- The addresses of the exact 16-bit round trip (conflict C4): outside the cartridge's and the video unit's regions and
outside 0xFF00, 0xFF04, 0xFF0F, 0xFF41, 0xFF44 and 0xFFFF. -/
def roundTripAddr (a : Addr) : Bool :=
  !(isCartAddr a || isVramAddr a || isOamAddr a) && !(a == joypAddr || a == divAddr || a == ifAddr) &&
    !(a == statAddr || a == lyAddr || a == ieAddr)

/-- The instruction can start a DMA (R181): a write to 0xFF46, by any operation but `FORCE_WRITE`. -/
def startsDma : Instr → Bool
  | .forceWrite _ _ => false
  | i => namesTarget dmaAddr i

/-- `0xC000..0xDDFF`, the work RAM that has an echo (R62). -/
def isMirroredWork (a : Addr) : Bool := inRange 0xC000 0xDDFF a

/-- The other address of a mirrored pair. -/
def mirrorOf (a : Addr) : Addr := if isMirroredWork a then echoOf a else workOf a

/-- The echo mirror (R42): every mirrored work-RAM byte equals its echo byte. -/
def EchoHolds (s : State) : Prop := ∀ a, isMirroredWork a = true → byteAt s (echoOf a) = byteAt s a

/-- The instruction is a `FORCE_WRITE` into either side of the mirror (R42). -/
def forcesMirror (i : Instr) : Prop :=
  ∃ a d, i = .forceWrite a d ∧ (isMirroredWork a = true ∨ isEchoAddr a = true)

/-- The store is in its canonical form (log entry 8). -/
def StoreCanonical (s : State) : Prop := Memory.wf s.store

end Sys2Proof.Machine
end

