-- ==== Sys2Proof/Certificates/Slice0/Obligations.lean ====
section
/-! DEFINITION. The statements for the provers. Each docstring cites the rule it formalises, and says where a clause rests on a
choice of the model (a log entry of notes/assumptions). -/

open Sys2Proof Sys2Proof.Machine

/-! ## Requests: encoding, decoding, refusing -/

/-- Decode and encode agree (R91, R92, R101, R102): the decoder reads back every well-formed instruction, with every operand,
from the request that the encoder writes for it. -/
def Obligations.DecodeOfEncodeIsInstruction : Prop :=
  ∀ i : Instr, wellFormed i = true → decode (encode i) = .ok i

/-- Each accepted request has one meaning (R91, R92, R98): the instruction read from it is well formed and encodes to that same
request, so no bit of an accepted word is ignored. -/
def Obligations.EncodeOfDecodeIsRequest : Prop :=
  ∀ (r : Request) (i : Instr), decode r = .ok i → wellFormed i = true ∧ encode i = r

/-- Request words laid out by R91 and R92, the examples of R103 among them, decode to the instructions they stand for, and three
lines of R103's text give their words. The two clauses on `readAt` and `writeAt` rest on the model's own call spelling of a byte
access (log entry 4), with the addresses of `RD.OAM` and `WR.ECHO` from R101 and R102. -/
def Obligations.SpecWordsDecode : Prop :=
  decode (.word 0x00C00000000#41) = .ok (.read .cpu 0xC000#16) ∧
  decode (.word 0x01C00000120#41) = .ok (.write .cpu 0xC000#16 0x12#8) ∧
  decode (.word 0x14FF4400900#41) = .ok (.forceWrite 0xFF44#16 0x90#8) ∧
  decode (.word 0x06000000005#41) = .ok (.setFlag .cpu .timer true) ∧
  decode (.word 0x07000000004#41) = .ok (.intPending .cpu .timer) ∧
  decode (.word 0x08FF0F00000#41) = .ok (.classify .cpu 0xFF0F#16) ∧
  decode (.word 0x03FFFEBEEF0#41) = .ok (.write16 .cpu 0xFFFE#16 0xBEEF#16) ∧
  decode (.word 0x02FFFF00000#41) = .ok (.read16 .cpu 0xFFFF#16) ∧
  decode (.word 0x05000000009#41) = .ok (.setEnable .cpu .joypad true) ∧
  decode (.readAt 0xFE80#16) = .ok (.readOam 0xFE80#16) ∧
  decode (.writeAt 0xF800#16 0x11#8) = .ok (.writeEcho 0xF800#16 0x11#8) ∧
  assemble "READ 0xC000" = some (.word 0x00C00000000#41) ∧
  assemble "priv: FORCE_WRITE 0xFF44, 0x90" = some (.word 0x14FF4400900#41) ∧
  assemble "SET_FLAG Timer, 1" = some (.word 0x06000000005#41)

/-- R100: every address meets exactly one of the region rows, and that row's region is the classifier's. -/
def Obligations.RegionRowsAgreeWithClassifier : Prop :=
  ∀ a : Addr, (regionRows.filter (fun r => rowHits r a)).map (fun r => r.tag) = [classify a]

/-- R101: the read path selects exactly one case per address, and `READ` at an address of a case performs that case. -/
def Obligations.ReadSelectsExactlyOneCase : Prop :=
  ∀ (p : Port) (a : Addr) (s : State),
    [isCartAddr a, isIrqAddr a, isVramAddr a, isOamAddr a, a == joypAddr, a == divAddr, isPlainReadAddr a].count true = 1 ∧
    (isCartAddr a = true → exec (.read p a) s = exec (.readCart a) s) ∧
    (isIrqAddr a = true → exec (.read p a) s = exec (.readIrq a) s) ∧
    (isVramAddr a = true → exec (.read p a) s = exec (.readVram a) s) ∧
    (isOamAddr a = true → exec (.read p a) s = exec (.readOam a) s) ∧
    (a = 0xFF00#16 → exec (.read p a) s = exec .readJoyp s) ∧
    (a = 0xFF04#16 → exec (.read p a) s = exec .readDiv s) ∧
    (isPlainReadAddr a = true → exec (.read p a) s = exec (.readPlain a) s)

/-- R102: the write path selects exactly one case per address, and `WRITE` at an address of a case performs that case. -/
def Obligations.WriteSelectsExactlyOneCase : Prop :=
  ∀ (p : Port) (a : Addr) (d : Byte) (s : State),
    [isCartAddr a, isWramAddr a, isEchoAddr a, a == divAddr, a == lcdcAddr, a == lyAddr, a == statAddr, a == joypAddr,
      isVramAddr a, isOamAddr a, a == dmaAddr, isPlainWriteAddr a].count true = 1 ∧
    (isCartAddr a = true → exec (.write p a d) s = exec (.writeCart a d) s) ∧
    (isWramAddr a = true → exec (.write p a d) s = exec (.writeWram a d) s) ∧
    (isEchoAddr a = true → exec (.write p a d) s = exec (.writeEcho a d) s) ∧
    (a = 0xFF04#16 → exec (.write p a d) s = exec (.writeDiv d) s) ∧
    (a = 0xFF40#16 → exec (.write p a d) s = exec (.writeLcdc d) s) ∧
    (a = 0xFF44#16 → exec (.write p a d) s = exec (.writeLy d) s) ∧
    (a = 0xFF41#16 → exec (.write p a d) s = exec (.writeStat d) s) ∧
    (a = 0xFF00#16 → exec (.write p a d) s = exec (.writeJoyp d) s) ∧
    (isVramAddr a = true → exec (.write p a d) s = exec (.writeVram a d) s) ∧
    (isOamAddr a = true → exec (.write p a d) s = exec (.writeOam a d) s) ∧
    (a = 0xFF46#16 → exec (.write p a d) s = exec (.writeDma d) s) ∧
    (isPlainWriteAddr a = true → exec (.write p a d) s = exec (.writePlain a d) s)

/-- The two spellings of a byte access step alike (R90, R91): the call `read(a)` or `write(a, d)`, whose address the decoder
turns into a dispatch case, and the request word of `READ` or `WRITE` on either port. The call spelling is the model's
(log entry 4). -/
def Obligations.CallAndWordStepAlike : Prop :=
  ∀ (p : Port) (a : Addr) (d : Byte) (s : State) (rest : List Request),
    step { s with requests := .readAt a :: rest } = step { s with requests := encode (.read p a) :: rest } ∧
    step { s with requests := .writeAt a d :: rest } = step { s with requests := encode (.write p a d) :: rest }

/-- R98: a request word is refused exactly when one of its four conditions holds. A refusal has no next state, so it changes
nothing, calls no port and gives no response. -/
def Obligations.RefusedExactlyWhenR98Says : Prop :=
  ∀ (s : State) (w : RequestWord) (rest : List Request), s.requests = .word w :: rest →
    ((∃ r, step s = .refused r) ↔
      reservedOpWord w ∨ badKindWord w ∨ unusedNonZeroWord w ∨ forceOnCpuWord w)

/-- R241: a refusal's reason is one that holds of the word. Where several hold, which one is named is the model's choice (log
entry 5), on which this statement does not rest. -/
def Obligations.RefusalReasonHolds : Prop :=
  ∀ (s : State) (w : RequestWord) (rest : List Request) (r : Refusal),
    s.requests = .word w :: rest → step s = .refused r →
      (r = .reservedOp ∧ reservedOpWord w) ∨ (r = .badKind ∧ badKindWord w) ∨
      (r = .nonZeroUnusedField ∧ unusedNonZeroWord w) ∨ (r = .forceOnCpuPort ∧ forceOnCpuWord w)

/-- R98 (a), R241: `RESERVED` is refused with `ReservedOp`, in every state and with any bits below `op`. -/
def Obligations.ReservedOpIsRefused : Prop :=
  ∀ (p : Port) (op : BitVec 4) (bits : BitVec 36) (s : State) (rest : List Request), 9 ≤ op.toNat →
    exec (.reserved p op bits) s = .refused .reservedOp ∧
    step { s with requests := .word (packWord p op bits) :: rest } = .refused .reservedOp

/-- R247: the privilege is the port's. A `FORCE_WRITE` word with zero unused fields is refused on the CPU-facing port and performed
on the privileged port, and every other operation does the same on both ports. -/
def Obligations.PrivilegeIsThePorts : Prop :=
  ∀ (s : State) (rest : List Request) (a : Addr) (d : Byte) (w : Half) (k : Kind) (v : Bool),
    step { s with requests := .word (packWord .cpu 0x4#4 (packRest a (d.setWidth 16) 0#3 false)) :: rest } =
      .refused .forceOnCpuPort ∧
    step { s with requests := .word (packWord .privileged 0x4#4 (packRest a (d.setWidth 16) 0#3 false)) :: rest } =
      exec (.forceWrite a d) { s with requests := rest } ∧
    ∀ f ∈ [fun p => Instr.read p a, fun p => .write p a d, fun p => .read16 p a, fun p => .write16 p a w,
        fun p => .setEnable p k v, fun p => .setFlag p k v, fun p => .intPending p k, fun p => .classify p a],
      step { s with requests := encode (f .cpu) :: rest } = step { s with requests := encode (f .privileged) :: rest }

/-! ## One step and whole-machine rules -/

/-- R23: a step performs the instruction of the next request on the state without that request. A rejected word is refused by the
decoder's reason, and with no request waiting the block stays as it is (log entry 3, the model's choice). -/
def Obligations.StepRunsTheDecodedRequest : Prop :=
  ∀ s : State,
    (∀ r rest i, s.requests = r :: rest → decode r = .ok i → step s = exec i { s with requests := rest }) ∧
    (∀ r rest e, s.requests = r :: rest → decode r = .error e → step s = .refused (refusalOf e)) ∧
    (s.requests = [] → step s = .next s)

/-- R240, R70: every accepted request but a reserved one completes, whatever its operands. It is consumed, the requests behind it
stay as they are (R24), and it gives exactly one response. -/
def Obligations.AcceptedRequestsComplete : Prop :=
  ∀ (s : State) (r : Request) (rest : List Request) (i : Instr),
    s.requests = r :: rest → decode r = .ok i → (∀ p op bits, i ≠ .reserved p op bits) →
      ∃ t resp, step s = .next t ∧ t.requests = rest ∧ t.responses = s.responses ++ [resp]

/-- R270: after construction the store holds the seed list, and 0x00 everywhere else, and the trace is empty. -/
def Obligations.ConstructionState : Prop :=
  byteAt State.reset 0xFF00#16 = 0xCF#8 ∧ byteAt State.reset 0xFF01#16 = 0x00#8 ∧
  byteAt State.reset 0xFF02#16 = 0x7E#8 ∧ byteAt State.reset 0xFF04#16 = 0x18#8 ∧
  byteAt State.reset 0xFF05#16 = 0x00#8 ∧ byteAt State.reset 0xFF06#16 = 0x00#8 ∧
  byteAt State.reset 0xFF07#16 = 0xF8#8 ∧ byteAt State.reset 0xFF0F#16 = 0xE1#8 ∧
  byteAt State.reset 0xFF40#16 = 0x91#8 ∧ byteAt State.reset 0xFF41#16 = 0x81#8 ∧
  byteAt State.reset 0xFF42#16 = 0x00#8 ∧ byteAt State.reset 0xFF43#16 = 0x00#8 ∧
  byteAt State.reset 0xFF44#16 = 0x91#8 ∧ byteAt State.reset 0xFF45#16 = 0x00#8 ∧
  byteAt State.reset 0xFF46#16 = 0xFF#8 ∧ byteAt State.reset 0xFF47#16 = 0xFC#8 ∧
  byteAt State.reset 0xFF4A#16 = 0x00#8 ∧ byteAt State.reset 0xFF4B#16 = 0x00#8 ∧
  byteAt State.reset 0xFFFF#16 = 0x00#8 ∧
  (∀ a : Addr,
    a ∉ [0xFF00#16, 0xFF01#16, 0xFF02#16, 0xFF04#16, 0xFF05#16, 0xFF06#16, 0xFF07#16, 0xFF0F#16, 0xFF40#16, 0xFF41#16,
      0xFF42#16, 0xFF43#16, 0xFF44#16, 0xFF45#16, 0xFF46#16, 0xFF47#16, 0xFF4A#16, 0xFF4B#16, 0xFFFF#16] →
    byteAt State.reset a = 0x00#8) ∧
  State.reset.trace = []

/-- The store keeps its canonical form (log entry 8, the model's own representation of R20) in every step from every state that has
it. -/
def Obligations.StoreStaysCanonical : Prop :=
  ∀ s t : State, StoreCanonical s → step s = .next t → StoreCanonical t

/-- The construction state's store (R270) has the canonical form (log entry 8, the model's own representation of R20), and it is the
only canonical store that reads like it. -/
def Obligations.ConstructionStoreCanonical : Prop :=
  StoreCanonical State.reset ∧
    ∀ s : State, StoreCanonical s → (∀ a, byteAt s a = byteAt State.reset a) → s.store = State.reset.store

/-- R42: the echo mirror holds at construction; every step keeps it unless it forces a byte of the mirror; such a force updates
only its one byte, so a new value breaks the mirror there; and a later write to either side makes the two bytes equal
again. -/
def Obligations.EchoMirrorHoldsUntilForced : Prop :=
  EchoHolds State.reset ∧
  (∀ s t : State, EchoHolds s → (∀ i, nextInstr s = some i → ¬ forcesMirror i) → step s = .next t → EchoHolds t) ∧
  (∀ (s : State) (a : Addr) (d : Byte), isMirroredWork a = true ∨ isEchoAddr a = true →
    Completes (.forceWrite a d) s [(a, d)] [] .none) ∧
  (∀ (s t : State) (a : Addr) (d : Byte), EchoHolds s → isMirroredWork a = true ∨ isEchoAddr a = true → d ≠ byteAt s a →
    exec (.forceWrite a d) s = .next t → ¬ EchoHolds t) ∧
  (∀ (p : Port) (s : State) (a : Addr) (d : Byte), isMirroredWork a = true →
    ∀ i ∈ [Instr.write p a d, .write p (echoOf a) d],
      ∃ t, exec i s = .next t ∧ byteAt t a = d ∧ byteAt t (echoOf a) = d)

/-- R43: the port-event trace is append-only, and (log entry 7) so are the responses. -/
def Obligations.TraceAndResponsesOnlyGrow : Prop :=
  ∀ s t : State, step s = .next t → s.trace <+: t.trace ∧ s.responses <+: t.responses

/-- R38: a non-authoritative byte changes in no step but a `FORCE_WRITE` to its address. -/
def Obligations.NonAuthoritativeBytesOnlyForced : Prop :=
  ∀ (s t : State) (i : Instr) (a : Addr), nonAuthoritative a = true → nextInstr s = some i → ¬ forcesAt a i →
    step s = .next t → byteAt t a = byteAt s a

/-- R38: a non-authoritative byte is observable only as a DMA source byte. Where the next instruction starts no DMA, two states that
differ in that byte alone give the same response and the same port calls, and again differ in that byte at most. -/
def Obligations.NonAuthoritativeBytesHidden : Prop :=
  ∀ (s t : State) (i : Instr) (a : Addr) (v : Byte), nonAuthoritative a = true → wellFormed i = true →
    startsDma i = false → exec i s = .next t →
      ∃ u, exec i (putByte s a v) = .next u ∧ u.trace = t.trace ∧ u.responses = t.responses ∧ sameInputs t u ∧
        ∀ x, x ≠ a → byteAt u x = byteAt t x

/-- R37, R244: no step sets or clears a bit of IF or IE as a side effect. Such a byte changes only where the instruction names its
address. -/
def Obligations.InterruptBytesChangeOnlyWhenNamed : Prop :=
  ∀ (s t : State) (i : Instr) (a : Addr), a = 0xFF0F#16 ∨ a = 0xFFFF#16 → nextInstr s = some i →
    namesTarget a i = false → step s = .next t → byteAt t a = byteAt s a

/-- R31, R32 (conflict C6): LY, and bits 2:0 of STAT, change in no step but a `FORCE_WRITE` to the register or a write of LCDC. -/
def Obligations.VideoStatusMutators : Prop :=
  ∀ (s t : State) (i : Instr), nextInstr s = some i → namesTarget 0xFF40#16 i = false → step s = .next t →
    (¬ forcesAt 0xFF44#16 i → byteAt t 0xFF44#16 = byteAt s 0xFF44#16) ∧
    (¬ forcesAt 0xFF41#16 i → byteAt t 0xFF41#16 &&& 0b00000111#8 = byteAt s 0xFF41#16 &&& 0b00000111#8)

/-- R67: a read changes nothing in the store. At a port address it makes one port call, and at every other address none. -/
def Obligations.ReadSideEffects : Prop :=
  ∀ (p : Port) (a : Addr) (s : State), ∃ t, exec (.read p a) s = .next t ∧ (∀ x, byteAt t x = byteAt s x) ∧
    (portAddr a = true → ∃ e, t.trace = s.trace ++ [e]) ∧ (portAddr a = false → t.trace = s.trace)

/-- R68: the frame of every instruction at once. A byte changes only where the instruction names its address, or names the address
it mirrors, or, for LY and STAT, writes LCDC. -/
def Obligations.BytesChangeOnlyAsTabled : Prop :=
  ∀ (i : Instr) (s t : State) (a : Addr), wellFormed i = true → exec i s = .next t → namesTarget a i = false →
    (isMirroredWork a = true ∨ isEchoAddr a = true → namesTarget (mirrorOf a) i = false) →
    (a = 0xFF44#16 ∨ a = 0xFF41#16 → namesTarget 0xFF40#16 i = false) →
    byteAt t a = byteAt s a

/-- R69: two reads of a bus-owned address with nothing between give the same response, and a repeated write of the same value leaves
the same bytes. -/
def Obligations.RepeatedAccessesAgree : Prop :=
  (∀ (p q : Port) (a : Addr) (s : State), portAddr a = false →
    ∃ t u r, exec (.read p a) s = .next t ∧ exec (.read q a) t = .next u ∧
      t.responses = s.responses ++ [r] ∧ u.responses = t.responses ++ [r]) ∧
  (∀ (p q : Port) (a : Addr) (d : Byte) (s : State),
    ∃ t u, exec (.write p a d) s = .next t ∧ exec (.write q a d) t = .next u ∧ ∀ x, byteAt u x = byteAt t x)

/-- R71 and example E1: a read returns what the last write left, at every address that stores the whole byte and shows it, and at
either side of the echo mirror. -/
def Obligations.ReadAfterWrite : Prop :=
  ∀ (p q : Port) (a x : Addr) (d : Byte) (s : State),
    (x = a ∧ ((isWramAddr a || isEchoAddr a || isPlainWriteAddr a || a == lcdcAddr || a == dmaAddr) = true) ∧
        a ≠ 0xFF0F#16 ∧ a ≠ 0xFFFF#16) ∨
      (isMirroredWork a = true ∧ x = echoOf a) ∨ (isEchoAddr a = true ∧ x = workOf a) →
    ∃ t u, exec (.write p a d) s = .next t ∧ exec (.read q x) t = .next u ∧
      u.responses = t.responses ++ [.byte d]

/-- Example E7 as conflict C4 makes it exact: a 16-bit value written where both addresses round-trip is read back whole. -/
def Obligations.SixteenBitRoundTrip : Prop :=
  ∀ (p q : Port) (a : Addr) (w : Half) (s : State), roundTripAddr a = true → roundTripAddr (a + 1#16) = true →
    ∃ t u, exec (.write16 p a w) s = .next t ∧ exec (.read16 q a) t = .next u ∧
      u.responses = t.responses ++ [.half w]

/-- R185, "observability of the order": at every address the two byte writes of a 16-bit write leave the same store in either
order. -/
def Obligations.ByteOrderOfWrite16Invisible : Prop :=
  ∀ (p : Port) (a : Addr) (lo hi : Byte) (s : State),
    ∃ t1 t2 u1 u2, exec (.write p a lo) s = .next t1 ∧ exec (.write p (a + 1#16) hi) t1 = .next t2 ∧
      exec (.write p (a + 1#16) hi) s = .next u1 ∧ exec (.write p a lo) u1 = .next u2 ∧
      ∀ x, byteAt t2 x = byteAt u2 x

/-- R62: the echo map is a bijection between EchoRAM and 0xC000..0xDDFF, and the +0x2000 images of 0xDE00..0xDFFF lie outside both. -/
def Obligations.EchoMapIsBijection : Prop :=
  ∀ a : Addr,
    (isEchoAddr a = true → isMirroredWork (workOf a) = true ∧ echoOf (workOf a) = a) ∧
    (isMirroredWork a = true → isEchoAddr (echoOf a) = true ∧ workOf (echoOf a) = a) ∧
    (inRange 0xDE00 0xDFFF a = true → inRange 0xFE00 0xFFFF (a + 0x2000#16) = true)

/-! ## The classifier and the read path -/

/-- R121, R95: the classifier gives the region whose inclusive bounds hold the address, and `CLASSIFY` responds with that region's
4-bit code, never one of 12 to 15, and changes nothing else. -/
def Obligations.ClassifyGivesTheRegion : Prop :=
  ∀ (p : Port) (a : Addr) (s : State), ∃ r c, classify a = r ∧ Completes (.classify p a) s [] [] (.region c) ∧
    regionCode r = c ∧ c.toNat ≤ 11 ∧
    (a.toNat ≤ 0x3FFF → r = .bankZero ∧ c = 0#4) ∧
    (0x4000 ≤ a.toNat ∧ a.toNat ≤ 0x7FFF → r = .bankSwitchable ∧ c = 1#4) ∧
    (0x8000 ≤ a.toNat ∧ a.toNat ≤ 0x9FFF → r = .videoRAM ∧ c = 2#4) ∧
    (0xA000 ≤ a.toNat ∧ a.toNat ≤ 0xBFFF → r = .externalRAM ∧ c = 3#4) ∧
    (0xC000 ≤ a.toNat ∧ a.toNat ≤ 0xCFFF → r = .workRAM1 ∧ c = 4#4) ∧
    (0xD000 ≤ a.toNat ∧ a.toNat ≤ 0xDFFF → r = .workRAM2 ∧ c = 5#4) ∧
    (0xE000 ≤ a.toNat ∧ a.toNat ≤ 0xFDFF → r = .echoRAM ∧ c = 6#4) ∧
    (0xFE00 ≤ a.toNat ∧ a.toNat ≤ 0xFE9F → r = .spriteAttributeTable ∧ c = 7#4) ∧
    (0xFEA0 ≤ a.toNat ∧ a.toNat ≤ 0xFEFF → r = .notUsable ∧ c = 8#4) ∧
    (0xFF00 ≤ a.toNat ∧ a.toNat ≤ 0xFF7F → r = .ioRegisters ∧ c = 9#4) ∧
    (0xFF80 ≤ a.toNat ∧ a.toNat ≤ 0xFFFE → r = .highRAM ∧ c = 10#4) ∧
    (a.toNat = 0xFFFF → r = .interruptEnable ∧ c = 11#4)

/-- R141: a read in the cartridge's regions is `Cartridge.read(a)` with the full address. -/
def Obligations.CartridgeRead : Prop :=
  ∀ (p : Port) (a : Addr) (s : State), isCartAddr a = true →
    ReadsPort (.read p a) s (.cartRd a) ∧ ReadsPort (.readCart a) s (.cartRd a)

/-- R143, R144: a read in VideoRAM is `Video.read_vram(a)` and one in SpriteAttributeTable `Video.read_oam(a)`, with the full
address. -/
def Obligations.VideoRead : Prop :=
  ∀ (p : Port) (a : Addr) (s : State),
    (isVramAddr a = true → ReadsPort (.read p a) s (.vramRd a) ∧ ReadsPort (.readVram a) s (.vramRd a)) ∧
    (isOamAddr a = true → ReadsPort (.read p a) s (.oamRd a) ∧ ReadsPort (.readOam a) s (.oamRd a))

/-- R145: a read of 0xFF00 is `Input.read(sel)` with the full stored byte, answered unmodified. -/
def Obligations.JoypadRead : Prop :=
  ∀ (p : Port) (s : State), ∀ i ∈ [Instr.read p 0xFF00#16, .readJoyp],
    ReadsPort i s (.joypRd (byteAt s 0xFF00#16))

/-- R146: a read of 0xFF04 is `Timer.read_divider()`. The stored byte plays no part in it. -/
def Obligations.DividerRead : Prop :=
  ∀ (p : Port) (s : State), ∀ i ∈ [Instr.read p 0xFF04#16, .readDiv], ReadsPort i s .divRd

/-- R142: a read of an interrupt register shows the stored byte with bits 7:5 set, and changes nothing. -/
def Obligations.InterruptRegisterRead : Prop :=
  ∀ (p : Port) (a : Addr) (s : State), a = 0xFFFF#16 ∨ a = 0xFF0F#16 →
    ∀ i ∈ [Instr.read p a, .readIrq a], Completes i s [] [] (.byte (0b11100000#8 ||| byteAt s a))

/-- R147: a read of any other address returns the stored byte, and changes nothing. -/
def Obligations.PlainRead : Prop :=
  ∀ (p : Port) (a : Addr) (s : State), isPlainReadAddr a = true →
    ∀ i ∈ [Instr.read p a, .readPlain a], Completes i s [] [] (.byte (byteAt s a))

/-- R150: `READ16` is two `READ`s through the full path, the low byte first, the high byte at the next address modulo 65536; its one
response joins them, and everything else is as those reads leave it. -/
def Obligations.Read16IsTwoReads : Prop :=
  ∀ (p : Port) (a : Addr) (s : State),
    ∃ t1 t2 lo hi, exec (.read p a) s = .next t1 ∧ t1.responses = s.responses ++ [.byte lo] ∧
      exec (.read p (a + 1#16)) t1 = .next t2 ∧ t2.responses = t1.responses ++ [.byte hi] ∧
      exec (.read16 p a) s = .next { t2 with responses := s.responses ++ [.half (hi ++ lo)] }

/-! ## The write path -/

/-- R171: a write in the cartridge's regions is forwarded, and stores nothing. -/
def Obligations.CartridgeWrite : Prop :=
  ∀ (p : Port) (a : Addr) (d : Byte) (s : State), isCartAddr a = true →
    ∀ i ∈ [Instr.write p a d, .writeCart a d], Completes i s [] [.cartWr a d] .none

/-- R172: a write in work RAM stores the byte, and up to 0xDDFF its echo byte too. -/
def Obligations.WorkRamWrite : Prop :=
  ∀ (p : Port) (a : Addr) (d : Byte) (s : State), ∀ i ∈ [Instr.write p a d, .writeWram a d],
    (0xC000 ≤ a.toNat ∧ a.toNat ≤ 0xDDFF → Completes i s [(a, d), (a + 0x2000#16, d)] [] .none) ∧
    (0xDE00 ≤ a.toNat ∧ a.toNat ≤ 0xDFFF → Completes i s [(a, d)] [] .none)

/-- R173: a write in echo RAM stores the byte, and the work-RAM byte it mirrors. -/
def Obligations.EchoRamWrite : Prop :=
  ∀ (p : Port) (a : Addr) (d : Byte) (s : State), 0xE000 ≤ a.toNat ∧ a.toNat ≤ 0xFDFF →
    ∀ i ∈ [Instr.write p a d, .writeEcho a d], Completes i s [(a, d), (a - 0x2000#16, d)] [] .none

/-- R174: a write of any value to 0xFF04 resets the timer, and stores nothing. -/
def Obligations.DividerWrite : Prop :=
  ∀ (p : Port) (d : Byte) (s : State), ∀ i ∈ [Instr.write p 0xFF04#16 d, .writeDiv d],
    Completes i s [] [.divReset] .none

/-- R175: a write of LCDC stores all 8 bits, and clears LY and bits 2:0 of STAT unless bit 7 was 1 and stays 1. -/
def Obligations.LcdcWrite : Prop :=
  ∀ (p : Port) (d : Byte) (s : State), ∀ i ∈ [Instr.write p 0xFF40#16 d, .writeLcdc d],
    ((byteAt s 0xFF40#16).getLsbD 7 = true ∧ d.getLsbD 7 = true → Completes i s [(0xFF40#16, d)] [] .none) ∧
    (¬ ((byteAt s 0xFF40#16).getLsbD 7 = true ∧ d.getLsbD 7 = true) →
      Completes i s
        [(0xFF40#16, d), (0xFF44#16, 0x00#8), (0xFF41#16, byteAt s 0xFF41#16 &&& 0b11111000#8)] [] .none)

/-- R176: a write of LY is discarded. -/
def Obligations.LyWrite : Prop :=
  ∀ (p : Port) (d : Byte) (s : State), ∀ i ∈ [Instr.write p 0xFF44#16 d, .writeLy d], Completes i s [] [] .none

/-- R177: a write of STAT replaces the high 5 bits and keeps the low 3. -/
def Obligations.StatWrite : Prop :=
  ∀ (p : Port) (d : Byte) (s : State), ∀ i ∈ [Instr.write p 0xFF41#16 d, .writeStat d],
    Completes i s [(0xFF41#16, (d &&& 0b11111000#8) ||| (byteAt s 0xFF41#16 &&& 0b00000111#8))] [] .none

/-- R178: a write of JOYP replaces the high 4 bits and keeps the low 4, with no port call. -/
def Obligations.JoypadWrite : Prop :=
  ∀ (p : Port) (d : Byte) (s : State), ∀ i ∈ [Instr.write p 0xFF00#16 d, .writeJoyp d],
    Completes i s [(0xFF00#16, (d &&& 0b11110000#8) ||| (byteAt s 0xFF00#16 &&& 0b00001111#8))] [] .none

/-- R179, R180: a write in VideoRAM or SpriteAttributeTable is forwarded with the full address, and stores nothing. -/
def Obligations.VideoWrite : Prop :=
  ∀ (p : Port) (a : Addr) (d : Byte) (s : State),
    (isVramAddr a = true → ∀ i ∈ [Instr.write p a d, .writeVram a d], Completes i s [] [.vramWr a d] .none) ∧
    (isOamAddr a = true → ∀ i ∈ [Instr.write p a d, .writeOam a d], Completes i s [] [.oamWr a d] .none)

/-- R181: a write of the DMA register stores the byte and makes exactly 160 calls of `Video.write_oam`, to 0xFE00 upward in order, with
the raw stored bytes from `d * 0x100` upward as they are once the register holds `d`. -/
def Obligations.DmaWrite : Prop :=
  ∀ (p : Port) (d : Byte) (s : State), ∀ i ∈ [Instr.write p 0xFF46#16 d, .writeDma d],
    ∃ t, exec i s = .next t ∧
      Effect s t [(0xFF46#16, d)]
        ((List.range 160).map (fun n =>
          .oamWr (0xFE00#16 + BitVec.ofNat 16 n) (byteAt t (d.setWidth 16 * 0x100#16 + BitVec.ofNat 16 n)))) .none

/-- R182: a write of any other address stores all 8 bits there and does nothing else. -/
def Obligations.PlainWrite : Prop :=
  ∀ (p : Port) (a : Addr) (d : Byte) (s : State), isPlainWriteAddr a = true →
    ∀ i ∈ [Instr.write p a d, .writePlain a d], Completes i s [(a, d)] [] .none

/-- R185: `WRITE16` is two `WRITE`s through the full path, the low byte first, the high byte at the next address modulo 65536, with one
empty response. -/
def Obligations.Write16IsTwoWrites : Prop :=
  ∀ (p : Port) (a : Addr) (w : Half) (s : State),
    ∃ t1 t2, exec (.write p a (w.extractLsb' 0 8)) s = .next t1 ∧
      exec (.write p (a + 1#16) (w.extractLsb' 8 8)) t1 = .next t2 ∧
      exec (.write16 p a w) s = .next { t2 with responses := s.responses ++ [.none] }

/-- R186: `FORCE_WRITE` stores exactly its byte, at every address: no port call, no mirror, no mask, no DMA, no reset. Its word with
`port` = 0 is refused. -/
def Obligations.ForceWriteIsRaw : Prop :=
  ∀ (a : Addr) (d : Byte) (s : State) (rest : List Request),
    Completes (.forceWrite a d) s [(a, d)] [] .none ∧
    step { s with requests := .word (packWord .cpu 0x4#4 (packRest a (d.setWidth 16) 0#3 false)) :: rest } =
      .refused .forceOnCpuPort

/-! ## The interrupt register view -/

/-- R221: `SET_ENABLE` makes bit k of IE the value and bits 7:5 one, keeps the other bits, and does nothing else; the kinds' bits are
those of R37; a `kind` of 5..7 is refused. -/
def Obligations.SetEnableWritesOneBit : Prop :=
  [Kind.vblank, .lcdStat, .timer, .serial, .joypad].map kindIndex = [0, 1, 2, 3, 4] ∧
  (∀ (p : Port) (k : Kind) (v : Bool) (s : State),
    ∃ n : Byte, Completes (.setEnable p k v) s [(0xFFFF#16, n)] [] .none ∧
      ∀ j, j < 8 → n.getLsbD j =
        if j = kindIndex k then v else if 5 ≤ j then true else (byteAt s 0xFFFF#16).getLsbD j) ∧
  ∀ (p : Port) (c : BitVec 3) (v : Bool) (s : State) (rest : List Request), 5 ≤ c.toNat →
    step { s with requests := .word (packWord p 0x5#4 (packRest 0#16 0#16 c v)) :: rest } = .refused .badKind

/-- R222: `SET_FLAG` makes bit k of IF the value and bits 7:5 one, keeps the other bits, and does nothing else; a `kind` of 5..7 is
refused. -/
def Obligations.SetFlagWritesOneBit : Prop :=
  (∀ (p : Port) (k : Kind) (v : Bool) (s : State),
    ∃ n : Byte, Completes (.setFlag p k v) s [(0xFF0F#16, n)] [] .none ∧
      ∀ j, j < 8 → n.getLsbD j =
        if j = kindIndex k then v else if 5 ≤ j then true else (byteAt s 0xFF0F#16).getLsbD j) ∧
  ∀ (p : Port) (c : BitVec 3) (v : Bool) (s : State) (rest : List Request), 5 ≤ c.toNat →
    step { s with requests := .word (packWord p 0x6#4 (packRest 0#16 0#16 c v)) :: rest } = .refused .badKind

/-- R223: `INT_PENDING` answers whether bit k is set in both IE and IF, calls no port and changes nothing; a `kind` of 5..7 is
refused. R275: at construction it answers false for every kind. -/
def Obligations.IntPendingIsTheAnd : Prop :=
  (∀ (p : Port) (k : Kind) (s : State),
    Completes (.intPending p k) s [] []
      (.flag ((byteAt s 0xFFFF#16).getLsbD (kindIndex k) && (byteAt s 0xFF0F#16).getLsbD (kindIndex k)))) ∧
  (∀ (p : Port) (k : Kind), Completes (.intPending p k) State.reset [] [] (.flag false)) ∧
  ∀ (p : Port) (c : BitVec 3) (s : State) (rest : List Request), 5 ≤ c.toNat →
    step { s with requests := .word (packWord p 0x7#4 (packRest 0#16 0#16 c false)) :: rest } = .refused .badKind

/-- R224: each operation of the view gives what the same `READ`s and `WRITE`s give with nothing between, but for its own single
response. -/
def Obligations.ViewIsReadsAndWrites : Prop :=
  ∀ (p : Port) (k : Kind) (v : Bool) (s : State),
    (∀ x ∈ [(0xFFFF#16, Instr.setEnable p k v), (0xFF0F#16, .setFlag p k v)],
      ∃ t1 t2 b, exec (.read p x.1) s = .next t1 ∧ t1.responses = s.responses ++ [.byte b] ∧
        exec (.write p x.1 (if v then b ||| (1#8 <<< kindIndex k) else b &&& ~~~(1#8 <<< kindIndex k))) t1 = .next t2 ∧
        exec x.2 s = .next { t2 with responses := s.responses ++ [.none] }) ∧
    ∃ t1 t2 e f, exec (.read p 0xFFFF#16) s = .next t1 ∧ t1.responses = s.responses ++ [.byte e] ∧
      exec (.read p 0xFF0F#16) t1 = .next t2 ∧ t2.responses = t1.responses ++ [.byte f] ∧
      exec (.intPending p k) s =
        .next { t2 with responses := s.responses ++ [.flag ((e &&& f) >>> kindIndex k &&& 1#8 == 1#8)] }

/-- Example E8: enabling and requesting a kind makes it pending, and clearing either bit makes it not pending, from every state. -/
def Obligations.InterruptComposition : Prop :=
  ∀ (p : Port) (k : Kind) (ve vf : Bool) (s : State),
    ∃ t u x, exec (.setEnable p k ve) s = .next t ∧ exec (.setFlag p k vf) t = .next u ∧
      exec (.intPending p k) u = .next x ∧ x.responses = u.responses ++ [.flag (ve && vf)]

/-- The model's own choice function (log entry 10), no rule of the spec: the block computes no priority (R245), and `firstPending` is
what a requester that brings `irqPriority` would pick; no operation uses it. With a priority over all five kinds it picks none exactly
when no kind's bit is set in both IE and IF, and the kind it picks has its bit set in both, as no kind before it in the order
has. -/
def Obligations.FirstPendingFollowsPriority : Prop :=
  ∀ (irqPriority : List Kind) (s : State), (∀ k, k ∈ irqPriority) →
    (firstPending irqPriority s = none ↔ ∀ k, ¬ pendingBits s k) ∧
    ∀ k, firstPending irqPriority s = some k →
      pendingBits s k ∧ ∃ before after, irqPriority = before ++ k :: after ∧ ∀ x ∈ before, ¬ pendingBits s x
end

