-- ==== Sys2Proof/Laws/Classify.lean ====
section
/-! SUPPORT. The classifier against the address sets of R101 and R102. -/

namespace Sys2Proof.Machine

theorem inRange_iff {lo hi : Nat} {a : Addr} : inRange lo hi a = true ↔ lo ≤ a.toNat ∧ a.toNat ≤ hi := by
  simp [inRange]

/-- An address is fixed by its number. -/
theorem addr_eq_iff {a b : Addr} : a = b ↔ a.toNat = b.toNat := BitVec.toNat_inj.symm

/-- A region's first address (R121). -/
def firstAddr : Region → Nat
  | .bankZero => 0x0000
  | .bankSwitchable => 0x4000
  | .videoRAM => 0x8000
  | .externalRAM => 0xA000
  | .workRAM1 => 0xC000
  | .workRAM2 => 0xD000
  | .echoRAM => 0xE000
  | .spriteAttributeTable => 0xFE00
  | .notUsable => 0xFEA0
  | .ioRegisters => 0xFF00
  | .highRAM => 0xFF80
  | .interruptEnable => 0xFFFF

/-- A region's last address (R121). -/
def lastAddr : Region → Nat
  | .bankZero => 0x3FFF
  | .bankSwitchable => 0x7FFF
  | .videoRAM => 0x9FFF
  | .externalRAM => 0xBFFF
  | .workRAM1 => 0xCFFF
  | .workRAM2 => 0xDFFF
  | .echoRAM => 0xFDFF
  | .spriteAttributeTable => 0xFE9F
  | .notUsable => 0xFEFF
  | .ioRegisters => 0xFF7F
  | .highRAM => 0xFFFE
  | .interruptEnable => 0xFFFF

/-- Two regions are one, or one ends before the other begins (R121). -/
theorem regions_apart (r q : Region) : r = q ∨ lastAddr r < firstAddr q ∨ lastAddr q < firstAddr r := by
  cases r <;> cases q <;> decide

/-- One comparison of the classifier: what holds below the bound and above it holds of the choice. -/
theorem bounds_of_choice {n m : Nat} {r q : Region} (below : n ≤ m → firstAddr r ≤ n ∧ n ≤ lastAddr r)
    (above : m + 1 ≤ n → firstAddr q ≤ n ∧ n ≤ lastAddr q) :
    firstAddr (if n ≤ m then r else q) ≤ n ∧ n ≤ lastAddr (if n ≤ m then r else q) := by
  split
  · exact below ‹_›
  · exact above (by omega)

/-- An address lies in the region the classifier gives it (R121). -/
theorem classify_bounds (a : Addr) : firstAddr (classify a) ≤ a.toNat ∧ a.toNat ≤ lastAddr (classify a) := by
  have hlt := a.isLt
  unfold classify
  generalize a.toNat = n at *
  iterate 11 refine bounds_of_choice (fun h => ⟨by simp only [firstAddr]; omega, h⟩) (fun h => ?_)
  exact ⟨h, by simp only [lastAddr]; omega⟩

/-- The classifier, once: an address is in a region exactly when it lies between the region's first and last (R121). -/
theorem classify_iff (a : Addr) (r : Region) :
    classify a = r ↔ firstAddr r ≤ a.toNat ∧ a.toNat ≤ lastAddr r := by
  have hb := classify_bounds a
  constructor
  · rintro rfl
    exact hb
  · intro h
    rcases regions_apart (classify a) r with e | e | e
    · exact e
    · omega
    · omega

/-- The code of a region is one of 0 to 11 (R95). -/
theorem regionCode_le (r : Region) : (regionCode r).toNat ≤ 11 := by
  cases r <;> decide

theorem classify_cart (a : Addr) : isCartRegion (classify a) = isCartAddr a := by
  rw [Bool.eq_iff_iff]
  simp only [isCartRegion, isCartAddr, Bool.or_eq_true, beq_iff_eq, classify_iff, inRange_iff, firstAddr, lastAddr]
  omega

theorem classify_videoRAM (a : Addr) : classify a = .videoRAM ↔ isVramAddr a = true := by
  rw [classify_iff, isVramAddr, inRange_iff, firstAddr, lastAddr]

theorem classify_oam (a : Addr) : classify a = .spriteAttributeTable ↔ isOamAddr a = true := by
  rw [classify_iff, isOamAddr, inRange_iff, firstAddr, lastAddr]

theorem classify_workRAM (a : Addr) : classify a = .workRAM1 ∨ classify a = .workRAM2 ↔ isWramAddr a = true := by
  simp only [classify_iff, isWramAddr, inRange_iff, firstAddr, lastAddr]
  omega

theorem classify_echoRAM (a : Addr) : classify a = .echoRAM ↔ isEchoAddr a = true := by
  rw [classify_iff, isEchoAddr, inRange_iff, firstAddr, lastAddr]

/-- The addresses the block is not authoritative for (R21). -/
theorem nonAuthoritative_iff (a : Addr) :
    nonAuthoritative a = true ↔ isCartAddr a = true ∨ isVramAddr a = true ∨ isOamAddr a = true := by
  rw [← classify_videoRAM, ← classify_oam, ← classify_cart]
  simp [nonAuthoritative, busOwned, or_assoc]

end Sys2Proof.Machine
end

