-- ==== Sys2Proof/Laws/Cases.lean ====
section
/-! SUPPORT. The read and the write path by their cases: which case an address takes, and that `read` and `write` then perform that
case. -/

namespace Sys2Proof.Machine

/-- The read path, once: the address set (R101) and the case performed. -/
theorem busRead_by_case (a : Addr) (s : State) :
    (isCartAddr a = true ∧ busRead a s = readCart a s) ∨
    (isIrqAddr a = true ∧ busRead a s = readIrq a s) ∨
    (isVramAddr a = true ∧ busRead a s = readVram a s) ∨
    (isOamAddr a = true ∧ busRead a s = readOam a s) ∨
    (a = joypAddr ∧ busRead a s = readJoyp s) ∨
    (a = divAddr ∧ busRead a s = readDiv s) ∨
    (isPlainReadAddr a = true ∧ busRead a s = readPlain a s) := by
  unfold busRead
  simp only [classify_cart, classify_videoRAM, classify_oam]
  by_cases h1 : isCartAddr a = true
  · exact .inl ⟨h1, if_pos h1⟩
  rw [if_neg h1]
  by_cases h2 : a = ieAddr ∨ a = ifAddr
  · refine .inr (.inl ⟨?_, if_pos h2⟩)
    rcases h2 with rfl | rfl <;> rfl
  rw [if_neg h2]
  by_cases h3 : isVramAddr a = true
  · exact .inr (.inr (.inl ⟨h3, if_pos h3⟩))
  rw [if_neg h3]
  by_cases h4 : isOamAddr a = true
  · exact .inr (.inr (.inr (.inl ⟨h4, if_pos h4⟩)))
  rw [if_neg h4]
  by_cases h5 : a = joypAddr
  · exact .inr (.inr (.inr (.inr (.inl ⟨h5, if_pos h5⟩))))
  rw [if_neg h5]
  by_cases h6 : a = divAddr
  · exact .inr (.inr (.inr (.inr (.inr (.inl ⟨h6, if_pos h6⟩)))))
  rw [if_neg h6]
  refine .inr (.inr (.inr (.inr (.inr (.inr ⟨?_, rfl⟩)))))
  have hlt := a.isLt
  simp [isCartAddr, isVramAddr, isOamAddr, inRange, addr_eq_iff, ieAddr, ifAddr, joypAddr, divAddr]
    at h1 h2 h3 h4 h5 h6
  simp [isPlainReadAddr, inRange, addr_eq_iff]
  omega

/-- The write path, once: the address set (R102) and the case performed. -/
theorem busWrite_by_case (a : Addr) (d : Byte) (s : State) :
    (isCartAddr a = true ∧ busWrite a d s = writeCart a d s) ∨
    (isWramAddr a = true ∧ busWrite a d s = writeWram a d s) ∨
    (isEchoAddr a = true ∧ busWrite a d s = writeEcho a d s) ∨
    (a = divAddr ∧ busWrite a d s = writeDiv d s) ∨
    (a = lcdcAddr ∧ busWrite a d s = writeLcdc d s) ∨
    (a = lyAddr ∧ busWrite a d s = writeLy d s) ∨
    (a = statAddr ∧ busWrite a d s = writeStat d s) ∨
    (a = joypAddr ∧ busWrite a d s = writeJoyp d s) ∨
    (isVramAddr a = true ∧ busWrite a d s = writeVram a d s) ∨
    (isOamAddr a = true ∧ busWrite a d s = writeOam a d s) ∨
    (a = dmaAddr ∧ busWrite a d s = writeDma d s) ∨
    (isPlainWriteAddr a = true ∧ busWrite a d s = writePlain a d s) := by
  unfold busWrite
  simp only [classify_cart, classify_workRAM, classify_echoRAM, classify_videoRAM, classify_oam]
  by_cases h1 : isCartAddr a = true
  · exact .inl ⟨h1, if_pos h1⟩
  rw [if_neg h1]
  by_cases h2 : isWramAddr a = true
  · exact .inr (.inl ⟨h2, if_pos h2⟩)
  rw [if_neg h2]
  by_cases h3 : isEchoAddr a = true
  · exact .inr (.inr (.inl ⟨h3, if_pos h3⟩))
  rw [if_neg h3]
  by_cases h4 : a = divAddr
  · iterate 3 right
    exact .inl ⟨h4, if_pos h4⟩
  rw [if_neg h4]
  by_cases h5 : a = lcdcAddr
  · iterate 4 right
    exact .inl ⟨h5, if_pos h5⟩
  rw [if_neg h5]
  by_cases h6 : a = lyAddr
  · iterate 5 right
    exact .inl ⟨h6, if_pos h6⟩
  rw [if_neg h6]
  by_cases h7 : a = statAddr
  · iterate 6 right
    exact .inl ⟨h7, if_pos h7⟩
  rw [if_neg h7]
  by_cases h8 : a = joypAddr
  · iterate 7 right
    exact .inl ⟨h8, if_pos h8⟩
  rw [if_neg h8]
  by_cases h9 : isVramAddr a = true
  · iterate 8 right
    exact .inl ⟨h9, if_pos h9⟩
  rw [if_neg h9]
  by_cases h10 : isOamAddr a = true
  · iterate 9 right
    exact .inl ⟨h10, if_pos h10⟩
  rw [if_neg h10]
  by_cases h11 : a = dmaAddr
  · iterate 10 right
    exact .inl ⟨h11, if_pos h11⟩
  rw [if_neg h11]
  iterate 11 right
  refine ⟨?_, rfl⟩
  have hlt := a.isLt
  simp [isCartAddr, isWramAddr, isEchoAddr, isVramAddr, isOamAddr, inRange, addr_eq_iff, divAddr, lcdcAddr,
    lyAddr, statAddr, joypAddr, dmaAddr] at h1 h2 h3 h4 h5 h6 h7 h8 h9 h10 h11
  simp [isPlainWriteAddr, inRange, addr_eq_iff]
  omega

end Sys2Proof.Machine
end

