-- ==== Sys2Proof/Laws/Decode.lean ====
section
/-! SUPPORT. The bits and fields of a packed request word, and the inverse pairs of the field codes. -/

namespace Sys2Proof

section Bits

variable (p : Port) (op : BitVec 4) (rest : BitVec 36) (a : Addr) (d : Half) (k : BitVec 3) (v : Bool)

/-- Every bit of a packed word comes from the field that holds its place. -/
theorem getLsbD_packWord (i : Nat) :
    (packWord p op rest).getLsbD i =
      if i < 36 then rest.getLsbD i
      else if i < 40 then op.getLsbD (i - 36) else (portBit p).getLsbD (i - 40) := by
  have h : (packWord p op rest).getLsbD i = (portBit p ++ op ++ rest : BitVec (1 + 4 + 36)).getLsbD i := rfl
  rw [h, BitVec.getLsbD_append, BitVec.getLsbD_append]
  by_cases h1 : i < 36
  · simp [h1]
  · by_cases h2 : i < 40
    · have : i - 36 < 4 := by omega
      simp [h1, h2, this]
    · have : ¬ i - 36 < 4 := by omega
      have e : i - 36 - 4 = i - 40 := by omega
      simp [h1, h2, this, e]

/-- Every bit below `op` comes from the field that holds its place. -/
theorem getLsbD_packRest (i : Nat) :
    (packRest a d k v).getLsbD i =
      if i < 1 then v && decide (i = 0)
      else if i < 4 then k.getLsbD (i - 1)
      else if i < 20 then d.getLsbD (i - 4) else a.getLsbD (i - 20) := by
  have h : (packRest a d k v).getLsbD i =
      (a ++ d ++ k ++ BitVec.ofBool v : BitVec (16 + 16 + 3 + 1)).getLsbD i := rfl
  rw [h, BitVec.getLsbD_append, BitVec.getLsbD_append, BitVec.getLsbD_append]
  by_cases h1 : i < 1
  · have : i = 0 := by omega
    subst this
    simp
  · by_cases h2 : i < 4
    · have : i - 1 < 3 := by omega
      simp [h1, h2, this]
    · by_cases h3 : i < 20
      · have e1 : ¬ i - 1 < 3 := by omega
        have e2 : i - 1 - 3 < 16 := by omega
        have e3 : i - 1 - 3 = i - 4 := by omega
        simp [h1, h2, h3, e1, e3, show i - 4 < 16 by omega]
      · have e1 : ¬ i - 1 < 3 := by omega
        have e3 : i - 1 - 3 = i - 4 := by omega
        have e4 : i - 4 - 16 = i - 20 := by omega
        simp [h1, h2, h3, e1, e3, e4, show ¬ i - 4 < 16 by omega]

end Bits

section Fields

variable (p : Port) (op : BitVec 4) (rest : BitVec 36) (a : Addr) (d : Half) (k : BitVec 3) (v : Bool)

@[simp] theorem portField_packWord : portField (packWord p op rest) = portBit p := by
  apply BitVec.eq_of_getLsbD_eq
  intro i hi
  have : i = 0 := by omega
  subst this
  rw [portField, BitVec.getLsbD_extractLsb', getLsbD_packWord]
  simp

@[simp] theorem opField_packWord : opField (packWord p op rest) = op := by
  apply BitVec.eq_of_getLsbD_eq
  intro i hi
  simp [opField, getLsbD_packWord, hi, show 36 + i < 40 by omega]

@[simp] theorem restField_packWord : restField (packWord p op rest) = rest := by
  apply BitVec.eq_of_getLsbD_eq
  intro i hi
  simp [restField, getLsbD_packWord, hi]

@[simp] theorem addrField_packRest : addrField (packWord p op (packRest a d k v)) = a := by
  apply BitVec.eq_of_getLsbD_eq
  intro i hi
  rw [addrField, BitVec.getLsbD_extractLsb', getLsbD_packWord, getLsbD_packRest]
  simp [hi, show 20 + i < 36 by omega, show ¬ 20 + i < 4 by omega]

@[simp] theorem dataField_packRest : dataField (packWord p op (packRest a d k v)) = d := by
  apply BitVec.eq_of_getLsbD_eq
  intro i hi
  rw [dataField, BitVec.getLsbD_extractLsb', getLsbD_packWord, getLsbD_packRest]
  simp [hi, show 4 + i < 36 by omega,
    show 4 + i < 20 by omega]

@[simp] theorem kindField_packRest : kindField (packWord p op (packRest a d k v)) = k := by
  apply BitVec.eq_of_getLsbD_eq
  intro i hi
  rw [kindField, BitVec.getLsbD_extractLsb', getLsbD_packWord, getLsbD_packRest]
  simp [hi, show 1 + i < 36 by omega,
    show 1 + i < 4 by omega]

@[simp] theorem valField_packRest : valField (packWord p op (packRest a d k v)) = BitVec.ofBool v := by
  apply BitVec.eq_of_getLsbD_eq
  intro i hi
  have : i = 0 := by omega
  subst this
  rw [valField, BitVec.getLsbD_extractLsb', getLsbD_packWord, getLsbD_packRest]
  simp

/-- The low byte of a byte operand with its high byte zero. -/
@[simp] theorem dataLow_byte (b : Byte) : dataLow (packWord p op (packRest a (b.setWidth 16) k v)) = b := by
  apply BitVec.eq_of_getLsbD_eq
  intro i hi
  rw [dataLow, dataField_packRest, BitVec.getLsbD_extractLsb', BitVec.getLsbD_setWidth]
  simp [hi, show i < 16 by omega]

@[simp] theorem dataHigh_byte (b : Byte) : dataHigh (packWord p op (packRest a (b.setWidth 16) k v)) = 0#8 := by
  apply BitVec.eq_of_getLsbD_eq
  intro i hi
  rw [dataHigh, dataField_packRest, BitVec.getLsbD_extractLsb', BitVec.getLsbD_setWidth]
  simp [hi]

/-- A word is the packing of its own fields. -/
theorem packWord_fields (w : RequestWord) :
    packWord (portOfBit (portField w)) (opField w) (restField w) = w := by
  apply BitVec.eq_of_getLsbD_eq
  intro i hi
  have hp : portBit (portOfBit (portField w)) = portField w := by
    unfold portOfBit
    split
    · next h => rw [h]; rfl
    · next h => generalize portField w = b at h ⊢; revert b; decide
  rw [getLsbD_packWord, hp]
  by_cases h1 : i < 36
  · simp [restField, h1]
  · by_cases h2 : i < 40
    · simp [opField, h1, h2, show i - 36 < 4 by omega, show 36 + (i - 36) = i by omega]
    · have : i = 40 := by omega
      subst this
      simp [portField]

/-- The bits below `op` are the packing of their own fields. -/
theorem packRest_fields (w : RequestWord) :
    packRest (addrField w) (dataField w) (kindField w) (valField w == 1#1) = restField w := by
  apply BitVec.eq_of_getLsbD_eq
  intro i hi
  rw [getLsbD_packRest]
  by_cases h1 : i < 1
  · have : i = 0 := by omega
    subst this
    have : ∀ b : BitVec 1, (b == 1#1) = b.getLsbD 0 := by decide
    simp [this, valField, restField]
  · by_cases h2 : i < 4
    · simp [kindField, restField, h1, h2, hi, show i - 1 < 3 by omega, show 1 + (i - 1) = i by omega]
    · by_cases h3 : i < 20
      · simp [dataField, restField, h1, h2, h3, hi, show i - 4 < 16 by omega, show 4 + (i - 4) = i by omega]
      · simp [addrField, restField, h1, h2, h3, hi, show i - 20 < 16 by omega,
          show 20 + (i - 20) = i by omega]

end Fields

section Codes

@[simp] theorem portOfBit_portBit (p : Port) : portOfBit (portBit p) = p := by cases p <;> rfl

@[simp] theorem portBit_portOfBit (b : BitVec 1) : portBit (portOfBit b) = b := by
  revert b; decide

@[simp] theorem kindOfCode_kindCode (k : Kind) : kindOfCode (kindCode k) = some k := by cases k <;> rfl

theorem kindOfCode_eq_some {c : BitVec 3} {k : Kind} (h : kindOfCode c = some k) : kindCode k = c := by
  revert c; cases k <;> decide

theorem kindOfCode_eq_none {c : BitVec 3} : kindOfCode c = none ↔ 5 ≤ c.toNat := by
  revert c; decide

theorem kindCode_toNat_lt (k : Kind) : (kindCode k).toNat < 5 := by cases k <;> decide

end Codes

end Sys2Proof
end

