-- ==== Sys2Proof/Laws/Memory.lean ====
section
/-! SUPPORT. The laws of the sparse store: a read after a write, and that writing keeps the canonical form. -/

namespace Sys2Proof.Machine

/-- The seed list lies in the I/O page and at 0xFFFF (R270). -/
theorem resetByte_below {n : Nat} (h : n < 0xFF00) : resetByte n = 0x00#8 := by
  have hf : seedTable.find? (fun c => c.1 == n) = none := by
    rw [List.find?_eq_none]
    have hall : ∀ c ∈ seedTable, 0xFF00 ≤ c.1 := by decide
    intro c hc
    have := hall c hc
    simp only [beq_iff_eq]
    omega
  rw [resetByte, hf]

@[simp] theorem memory_read_nil (n : Nat) : Memory.read [] n = resetByte n := rfl

theorem memory_read_cons (c : Host.Cell) (m : Memory) (n : Nat) :
    Memory.read (c :: m) n = if c.1 = n then c.2 else Memory.read m n := by
  by_cases h : c.1 = n <;> simp [Memory.read, h]

/-- Where no cell of the address is listed, the cell inserted is the one read. -/
theorem memory_read_insertCell (c : Host.Cell) (m : Memory) (n : Nat) (h : ∀ e ∈ m, e.1 ≠ c.1) :
    Memory.read (Memory.insertCell c m) n = if c.1 = n then c.2 else Memory.read m n := by
  induction m with
  | nil => simp [Memory.insertCell, memory_read_cons]
  | cons e m ih =>
    have he : e.1 ≠ c.1 := h e (by simp)
    have ih := ih (fun x hx => h x (by simp [hx]))
    unfold Memory.insertCell
    split
    · simp [memory_read_cons]
    · rw [memory_read_cons, ih, memory_read_cons]
      split_ifs <;> simp_all

theorem memory_read_filter_other (m : Memory) {k n : Nat} (h : n ≠ k) :
    Memory.read (m.filter (fun c => c.1 != k)) n = Memory.read m n := by
  induction m with
  | nil => rfl
  | cons e m ih =>
    by_cases he : e.1 = k
    · simp [he, ih, memory_read_cons, Ne.symm h]
    · simp [he, ih, memory_read_cons]

theorem memory_read_filter_self (m : Memory) (k : Nat) :
    Memory.read (m.filter (fun c => c.1 != k)) k = resetByte k := by
  induction m with
  | nil => rfl
  | cons e m ih =>
    by_cases he : e.1 = k
    · simp [he, ih]
    · simp [he, ih, memory_read_cons]

/-- Everything a write does to the reads of a store. -/
theorem memory_read_write (m : Memory) (k n : Nat) (b : Byte) :
    Memory.read (Memory.write m k b) n = if k = n then b else Memory.read m n := by
  unfold Memory.write
  by_cases hb : b = resetByte k <;> by_cases hk : k = n
  · subst hk; simp [hb, memory_read_filter_self]
  · simp [hb, hk, memory_read_filter_other m (Ne.symm hk)]
  · subst hk
    rw [if_neg hb, memory_read_insertCell _ _ _ (by simp)]
    simp
  · rw [if_neg hb, memory_read_insertCell _ _ _ (by simp)]
    simp [hk, memory_read_filter_other m (Ne.symm hk)]

theorem mem_insertCell {c x : Host.Cell} {m : Memory} : x ∈ Memory.insertCell c m ↔ x = c ∨ x ∈ m := by
  induction m with
  | nil => simp [Memory.insertCell]
  | cons e m ih =>
    unfold Memory.insertCell
    split
    · simp
    · simp [ih, or_left_comm]

theorem insertCell_sorted {c : Host.Cell} {m : Memory} (hm : m.Pairwise (fun x y => x.1 < y.1))
    (hc : ∀ e ∈ m, e.1 ≠ c.1) : (Memory.insertCell c m).Pairwise (fun x y => x.1 < y.1) := by
  induction m with
  | nil => simp [Memory.insertCell]
  | cons e m ih =>
    obtain ⟨he, hm'⟩ := List.pairwise_cons.mp hm
    unfold Memory.insertCell
    split
    · next hlt =>
      refine List.pairwise_cons.mpr ⟨?_, hm⟩
      intro y hy
      rcases List.mem_cons.mp hy with rfl | hy
      · exact hlt
      · exact lt_trans hlt (he y hy)
    · next hlt =>
      refine List.pairwise_cons.mpr ⟨?_, ih hm' (fun x hx => hc x (by simp [hx]))⟩
      intro y hy
      rcases mem_insertCell.mp hy with rfl | hy
      · have := hc e (by simp)
        omega
      · exact he y hy

theorem memory_wf_nil : Memory.wf [] := ⟨List.Pairwise.nil, by simp⟩

/-- A write inside the address space keeps the canonical form. -/
theorem memory_wf_write {m : Memory} (hm : Memory.wf m) {k : Nat} (hk : k < 65536) (b : Byte) :
    Memory.wf (Memory.write m k b) := by
  have hf : Memory.wf (m.filter (fun c => c.1 != k)) :=
    ⟨hm.1.filter _, fun c hc => hm.2 c (List.mem_of_mem_filter hc)⟩
  unfold Memory.write
  by_cases hb : b = resetByte k
  · simpa [hb] using hf
  · rw [if_neg hb]
    refine ⟨insertCell_sorted hf.1 (by simp), ?_⟩
    intro c hc
    rcases mem_insertCell.mp hc with rfl | hc
    · exact ⟨hk, hb⟩
    · exact hf.2 c hc

/-- Two canonical stores that read alike at every address are the same list. -/
theorem memory_ext {m₁ m₂ : Memory} (h₁ : Memory.wf m₁) (h₂ : Memory.wf m₂)
    (h : ∀ n, Memory.read m₁ n = Memory.read m₂ n) : m₁ = m₂ := by
  induction m₁ generalizing m₂ with
  | nil =>
    cases m₂ with
    | nil => rfl
    | cons e m =>
      have := h e.1
      rw [memory_read_cons, if_pos rfl] at this
      exact absurd this.symm (h₂.2 e (by simp)).2
  | cons e m ih =>
    have tail : ∀ {x : Host.Cell} {l : Memory}, Memory.wf (x :: l) → Memory.wf l := fun hw =>
      ⟨(List.pairwise_cons.mp hw.1).2, fun c hc => hw.2 c (by simp [hc])⟩
    have unlisted : ∀ {l : Memory} {n : Nat}, (∀ c ∈ l, n < c.1) → Memory.read l n = resetByte n := by
      intro l n hl
      induction l with
      | nil => rfl
      | cons x l ihl =>
        rw [memory_read_cons, if_neg (by have := hl x (by simp); omega)]
        exact ihl (fun c hc => hl c (by simp [hc]))
    cases m₂ with
    | nil =>
      have := h e.1
      rw [memory_read_cons, if_pos rfl] at this
      exact absurd this (h₁.2 e (by simp)).2
    | cons f k =>
      have hlt₁ := (List.pairwise_cons.mp h₁.1).1
      have hlt₂ := (List.pairwise_cons.mp h₂.1).1
      have hef : e.1 = f.1 := by
        rcases lt_trichotomy e.1 f.1 with hlt | heq | hlt
        · have := h e.1
          rw [memory_read_cons, if_pos rfl, unlisted (l := f :: k)] at this
          · exact absurd this (h₁.2 e (by simp)).2
          · intro c hc
            rcases List.mem_cons.mp hc with rfl | hc
            · exact hlt
            · exact lt_trans hlt (hlt₂ c hc)
        · exact heq
        · have := h f.1
          rw [memory_read_cons f k, if_pos rfl, unlisted (l := e :: m)] at this
          · exact absurd this.symm (h₂.2 f (by simp)).2
          · intro c hc
            rcases List.mem_cons.mp hc with rfl | hc
            · exact hlt
            · exact lt_trans hlt (hlt₁ c hc)
      have hv : e.2 = f.2 := by
        have := h e.1
        rwa [memory_read_cons, if_pos rfl, memory_read_cons, if_pos hef.symm] at this
      have hmk : m = k := by
        refine ih (tail h₁) (tail h₂) (fun n => ?_)
        by_cases hn : e.1 = n
        · subst hn
          rw [unlisted hlt₁, unlisted (by rw [hef]; exact hlt₂)]
        · have := h n
          rwa [memory_read_cons, if_neg hn, memory_read_cons, if_neg (hef ▸ hn)] at this
      rw [hmk, Prod.ext hef hv]

end Sys2Proof.Machine
end

