-- ==== Sys2Proof/Laws/State.lean ====
section
/-! SUPPORT. One lemma per field per update of the state. -/

namespace Sys2Proof.Machine

section Reset

@[simp] theorem reset_store : State.reset.store = [] := rfl
@[simp] theorem reset_trace : State.reset.trace = [] := rfl
@[simp] theorem reset_requests : State.reset.requests = [] := rfl
@[simp] theorem reset_answers : State.reset.answers = [] := rfl
@[simp] theorem reset_drawn : State.reset.drawn = 0 := rfl
@[simp] theorem reset_responses : State.reset.responses = [] := rfl

end Reset

section PutByte

variable (s : State) (a : Addr) (d : Byte)

@[simp] theorem putByte_store : (putByte s a d).store = Memory.write s.store a.toNat d := rfl
@[simp] theorem putByte_trace : (putByte s a d).trace = s.trace := rfl
@[simp] theorem putByte_requests : (putByte s a d).requests = s.requests := rfl
@[simp] theorem putByte_answers : (putByte s a d).answers = s.answers := rfl
@[simp] theorem putByte_drawn : (putByte s a d).drawn = s.drawn := rfl
@[simp] theorem putByte_responses : (putByte s a d).responses = s.responses := rfl

end PutByte

section Record

variable (e : PortEvent) (s : State)

@[simp] theorem record_store : (record e s).store = s.store := rfl
@[simp] theorem record_trace : (record e s).trace = s.trace ++ [e] := rfl
@[simp] theorem record_requests : (record e s).requests = s.requests := rfl
@[simp] theorem record_answers : (record e s).answers = s.answers := rfl
@[simp] theorem record_drawn : (record e s).drawn = s.drawn := rfl
@[simp] theorem record_responses : (record e s).responses = s.responses := rfl

@[simp] theorem callWrite_store : (callWrite e s).store = s.store := rfl
@[simp] theorem callWrite_trace : (callWrite e s).trace = s.trace ++ [e] := rfl
@[simp] theorem callWrite_requests : (callWrite e s).requests = s.requests := rfl
@[simp] theorem callWrite_answers : (callWrite e s).answers = s.answers := rfl
@[simp] theorem callWrite_drawn : (callWrite e s).drawn = s.drawn := rfl
@[simp] theorem callWrite_responses : (callWrite e s).responses = s.responses := rfl

end Record

section PushRequest

variable (r : Request) (s : State)

@[simp] theorem pushRequest_store : (pushRequest r s).store = s.store := rfl
@[simp] theorem pushRequest_trace : (pushRequest r s).trace = s.trace := rfl
@[simp] theorem pushRequest_requests : (pushRequest r s).requests = r :: s.requests := rfl
@[simp] theorem pushRequest_answers : (pushRequest r s).answers = s.answers := rfl
@[simp] theorem pushRequest_drawn : (pushRequest r s).drawn = s.drawn := rfl
@[simp] theorem pushRequest_responses : (pushRequest r s).responses = s.responses := rfl

end PushRequest

section DrawAnswer

variable (s : State)

@[simp] theorem drawAnswer_store : (drawAnswer s).2.store = s.store := by
  unfold drawAnswer; split <;> rfl
@[simp] theorem drawAnswer_trace : (drawAnswer s).2.trace = s.trace := by
  unfold drawAnswer; split <;> rfl
@[simp] theorem drawAnswer_requests : (drawAnswer s).2.requests = s.requests := by
  unfold drawAnswer; split <;> rfl
@[simp] theorem drawAnswer_responses : (drawAnswer s).2.responses = s.responses := by
  unfold drawAnswer; split <;> rfl

end DrawAnswer

end Sys2Proof.Machine
end

