-- ==== Sys2Proof/Laws/Ops.lean ====
section
/-! SUPPORT. One specification lemma for each shared operation; later proofs cite these and unfold nothing below them. -/

namespace Sys2Proof.Machine

/-! ## Bytes of the store -/

/-- A byte depends on the store alone. -/
theorem byteAt_congr {s t : State} (h : t.store = s.store) (a : Addr) : byteAt t a = byteAt s a := by
  simp [byteAt, h]

/-- `store[a] <- d` and then `store[x]`. -/
theorem byteAt_putByte (s : State) (a x : Addr) (d : Byte) :
    byteAt (putByte s a d) x = if a = x then d else byteAt s x := by
  simp [byteAt, memory_read_write, BitVec.toNat_inj]

@[simp] theorem byteAt_putByte_self (s : State) (a : Addr) (d : Byte) : byteAt (putByte s a d) a = d := by
  simp [byteAt_putByte]

theorem byteAt_putByte_other (s : State) {a x : Addr} (d : Byte) (h : x ≠ a) :
    byteAt (putByte s a d) x = byteAt s x := by
  simp [byteAt_putByte, Ne.symm h]

@[simp] theorem byteAt_reset (a : Addr) : byteAt State.reset a = resetByte a.toNat := rfl

@[simp] theorem byteAt_record (e : PortEvent) (s : State) (a : Addr) : byteAt (record e s) a = byteAt s a := rfl

@[simp] theorem byteAt_callWrite (e : PortEvent) (s : State) (a : Addr) : byteAt (callWrite e s) a = byteAt s a := rfl

/-- Storing a byte keeps the canonical form. -/
theorem putByte_canonical {s : State} (h : StoreCanonical s) (a : Addr) (d : Byte) :
    StoreCanonical (putByte s a d) :=
  memory_wf_write h a.isLt d

/-- Canonical form depends on the store alone. -/
theorem storeCanonical_congr {s t : State} (h : t.store = s.store) : StoreCanonical t ↔ StoreCanonical s := by
  simp [StoreCanonical, h]

/-! ## Port calls -/

/-- Everything a draw does. -/
theorem drawAnswer_spec (s : State) : Draws s (drawAnswer s).1 (drawAnswer s).2 := by
  unfold drawAnswer Draws
  cases h : s.answers with
  | nil => right; simp
  | cons b rest => left; exact ⟨rest, by simp⟩

/-- Everything a call with an answer does. -/
theorem callRead_spec (event : Byte → PortEvent) (s : State) :
    Draws s (callRead event s).1 (callRead event s).2 ∧
      (callRead event s).2.store = s.store ∧
      (callRead event s).2.trace = s.trace ++ [event (callRead event s).1] ∧
      (callRead event s).2.requests = s.requests ∧
      (callRead event s).2.responses = s.responses :=
  ⟨drawAnswer_spec s, by simp [callRead], by simp [callRead], by simp [callRead], by simp [callRead]⟩

/-- Draws depend on the inputs alone. -/
theorem draws_congr {s t t' : State} {b : Byte} (h : Draws s b t) (ha : t'.answers = t.answers)
    (hd : t'.drawn = t.drawn) : Draws s b t' := by
  simpa [Draws, ha, hd] using h

/-- A request's end is always a next state. -/
theorem respond_eq (r : Response) (s : State) :
    respond r s = .next { s with responses := s.responses ++ [r] } := rfl

/-! ## One step -/

/-- A step with a request waiting is the decoder's answer, performed on the state without that request. -/
theorem step_of_request {s : State} {r : Request} {rest : List Request} (h : s.requests = r :: rest) :
    step s = match decode r with
      | .ok i => exec i { s with requests := rest }
      | .error e => .refused (refusalOf e) := by
  cases hd : decode r <;> simp [step, takeRequest, h, hd]

/-- Everything a step that answers a next state can be: idle, or one decoded instruction performed. -/
theorem step_next_cases {s t : State} (h : step s = .next t) :
    (s.requests = [] ∧ t = s) ∨
      ∃ r rest i, s.requests = r :: rest ∧ decode r = .ok i ∧ nextInstr s = some i ∧
        exec i { s with requests := rest } = .next t := by
  cases hr : s.requests with
  | nil =>
    left
    simp only [step, takeRequest, hr, Host.Outcome.next.injEq] at h
    exact ⟨rfl, h.symm⟩
  | cons r rest =>
    right
    rw [step_of_request hr] at h
    cases hd : decode r with
    | error e => simp [hd] at h
    | ok i =>
      refine ⟨r, rest, i, rfl, hd, ?_, by simpa [hd] using h⟩
      simp [nextInstr, takeRequest, hr, hd]

end Sys2Proof.Machine
end

