-- ==== Sys2Proof/Laws/PerInstr.lean ====
section
/-! SUPPORT. A statement for every instruction: the operation code its request word carries is the one R92 gives it, and a
dispatch case's request is no word. -/

namespace Sys2Proof

/-- The operation code of an instruction that a request word spells (R92); none for a dispatch case. -/
def Laws.opCode : Instr → Option (BitVec 4)
  | .read _ _ => some 0x0
  | .write _ _ _ => some 0x1
  | .read16 _ _ => some 0x2
  | .write16 _ _ _ => some 0x3
  | .forceWrite _ _ => some 0x4
  | .setEnable _ _ _ => some 0x5
  | .setFlag _ _ _ => some 0x6
  | .intPending _ _ => some 0x7
  | .classify _ _ => some 0x8
  | .reserved _ op _ => some op
  | .readCart _ => none
  | .readIrq _ => none
  | .readVram _ => none
  | .readOam _ => none
  | .readJoyp => none
  | .readDiv => none
  | .readPlain _ => none
  | .writeCart _ _ => none
  | .writeWram _ _ => none
  | .writeEcho _ _ => none
  | .writeDiv _ => none
  | .writeLcdc _ => none
  | .writeLy _ => none
  | .writeStat _ => none
  | .writeJoyp _ => none
  | .writeVram _ _ => none
  | .writeOam _ _ => none
  | .writeDma _ => none
  | .writePlain _ _ => none

/-- The operation code in a request, where it is a word. -/
def Laws.requestOp : Request → Option (BitVec 4)
  | .word w => some (opField w)
  | .readAt _ => none
  | .writeAt _ _ => none

/-- The family's statement. -/
def Laws.EncodedOp.Statement (i : Instr) : Prop := Laws.requestOp (encode i) = Laws.opCode i

namespace Laws.EncodedOp

theorem read (p : Port) (a : Addr) : Statement (.read p a) := by simp [Statement, encode, Laws.requestOp, Laws.opCode]
theorem write (p : Port) (a : Addr) (d : Byte) : Statement (.write p a d) := by simp [Statement, encode, Laws.requestOp, Laws.opCode]
theorem read16 (p : Port) (a : Addr) : Statement (.read16 p a) := by simp [Statement, encode, Laws.requestOp, Laws.opCode]
theorem write16 (p : Port) (a : Addr) (w : Half) : Statement (.write16 p a w) := by simp [Statement, encode, Laws.requestOp, Laws.opCode]
theorem forceWrite (a : Addr) (d : Byte) : Statement (.forceWrite a d) := by simp [Statement, encode, Laws.requestOp, Laws.opCode]
theorem setEnable (p : Port) (k : Kind) (v : Bool) : Statement (.setEnable p k v) := by simp [Statement, encode, Laws.requestOp, Laws.opCode]
theorem setFlag (p : Port) (k : Kind) (v : Bool) : Statement (.setFlag p k v) := by simp [Statement, encode, Laws.requestOp, Laws.opCode]
theorem intPending (p : Port) (k : Kind) : Statement (.intPending p k) := by simp [Statement, encode, Laws.requestOp, Laws.opCode]
theorem classify (p : Port) (a : Addr) : Statement (.classify p a) := by simp [Statement, encode, Laws.requestOp, Laws.opCode]
theorem reserved (p : Port) (op : BitVec 4) (rest : BitVec 36) : Statement (.reserved p op rest) := by simp [Statement, encode, Laws.requestOp, Laws.opCode]
theorem readCart (a : Addr) : Statement (.readCart a) := rfl
theorem readIrq (a : Addr) : Statement (.readIrq a) := rfl
theorem readVram (a : Addr) : Statement (.readVram a) := rfl
theorem readOam (a : Addr) : Statement (.readOam a) := rfl
theorem readJoyp : Statement (.readJoyp) := rfl
theorem readDiv : Statement (.readDiv) := rfl
theorem readPlain (a : Addr) : Statement (.readPlain a) := rfl
theorem writeCart (a : Addr) (d : Byte) : Statement (.writeCart a d) := rfl
theorem writeWram (a : Addr) (d : Byte) : Statement (.writeWram a d) := rfl
theorem writeEcho (a : Addr) (d : Byte) : Statement (.writeEcho a d) := rfl
theorem writeDiv (d : Byte) : Statement (.writeDiv d) := rfl
theorem writeLcdc (d : Byte) : Statement (.writeLcdc d) := rfl
theorem writeLy (d : Byte) : Statement (.writeLy d) := rfl
theorem writeStat (d : Byte) : Statement (.writeStat d) := rfl
theorem writeJoyp (d : Byte) : Statement (.writeJoyp d) := rfl
theorem writeVram (a : Addr) (d : Byte) : Statement (.writeVram a d) := rfl
theorem writeOam (a : Addr) (d : Byte) : Statement (.writeOam a d) := rfl
theorem writeDma (d : Byte) : Statement (.writeDma d) := rfl
theorem writePlain (a : Addr) (d : Byte) : Statement (.writePlain a d) := rfl

end Laws.EncodedOp

end Sys2Proof
end

