-- ==== Sys2Proof/Laws/Read.lean ====
section
/-! SUPPORT. What the read path can do, said once: at most one port call, and nothing to the store, the requests or the
responses. -/

namespace Sys2Proof.Machine

/-- Every read is one of: the store's byte, an interrupt register's byte with its upper bits forced, or one port call. -/
theorem busRead_cases (a : Addr) (s : State) :
    busRead a s = (byteAt s a, s) ∨ busRead a s = (irqView (byteAt s a), s) ∨
      ∃ event, busRead a s = callRead event s := by
  unfold busRead readCart readIrq readVram readOam readJoyp readDiv readPlain
  split_ifs <;> first | exact .inr (.inr ⟨_, rfl⟩) | exact .inr (.inl rfl) | exact .inl rfl

@[simp] theorem busRead_store (a : Addr) (s : State) : (busRead a s).2.store = s.store := by
  rcases busRead_cases a s with h | h | ⟨e, h⟩ <;> rw [h]
  exact (callRead_spec e s).2.1

@[simp] theorem busRead_requests (a : Addr) (s : State) : (busRead a s).2.requests = s.requests := by
  rcases busRead_cases a s with h | h | ⟨e, h⟩ <;> rw [h]
  exact (callRead_spec e s).2.2.2.1

@[simp] theorem busRead_responses (a : Addr) (s : State) : (busRead a s).2.responses = s.responses := by
  rcases busRead_cases a s with h | h | ⟨e, h⟩ <;> rw [h]
  exact (callRead_spec e s).2.2.2.2

@[simp] theorem byteAt_busRead (a x : Addr) (s : State) : byteAt (busRead a s).2 x = byteAt s x :=
  byteAt_congr (busRead_store a s) x

/-- A read only appends to the trace. -/
theorem busRead_trace (a : Addr) (s : State) : s.trace <+: (busRead a s).2.trace := by
  rcases busRead_cases a s with h | h | ⟨e, h⟩ <;> rw [h]
  rw [(callRead_spec e s).2.2.1]
  exact List.prefix_append _ _

/-- The responses given so far play no part in a draw. -/
theorem drawAnswer_withResponses (s : State) (r : List Response) :
    drawAnswer { s with responses := r } =
      ((drawAnswer s).1, { (drawAnswer s).2 with responses := r }) := by
  cases s with
  | mk store trace requests answers drawn responses => cases answers <;> rfl

/-- The responses given so far play no part in a port call. -/
theorem callRead_withResponses (event : Byte → PortEvent) (s : State) (r : List Response) :
    callRead event { s with responses := r } =
      ((callRead event s).1, { (callRead event s).2 with responses := r }) := by
  simp only [callRead, drawAnswer_withResponses]
  rfl

/-- The responses given so far play no part in a read. -/
theorem busRead_withResponses (a : Addr) (s : State) (r : List Response) :
    busRead a { s with responses := r } = ((busRead a s).1, { (busRead a s).2 with responses := r }) := by
  unfold busRead readCart readIrq readVram readOam readJoyp readDiv readPlain
  have hb : ∀ x, byteAt { s with responses := r } x = byteAt s x := fun _ => rfl
  split_ifs <;> simp only [hb, callRead_withResponses]

/-- An interrupt's bit, read as the source reads it, is the bit at the kind's index. -/
theorem irqBit_eq (b : Byte) (k : Kind) : irqBit b k = b.getLsbD (kindIndex k) := by
  revert b; cases k <;> decide

/-- `interrupt_pending`, once: the kind's bit in both registers as stored (R223), and no change of state. -/
theorem readPending_spec (k : Kind) (s : State) :
    ((readPending k s).1 = true ↔ pendingBits s k) ∧ (readPending k s).2 = s := by
  refine ⟨?_, rfl⟩
  have h : (readPending k s).1 = irqBit (irqView (byteAt s 0xFFFF#16) &&& irqView (byteAt s 0xFF0F#16)) k := rfl
  rw [h, irqBit_eq, pendingBits]
  cases k <;> simp [irqView, irqForcedOnes, kindIndex, kindCode]

end Sys2Proof.Machine
end

