-- ==== Sys2Proof/Laws/Rows.lean ====
section
/-! SUPPORT. A match/mask row whose mask keeps the top bits is a range of addresses. -/

namespace Sys2Proof.Machine

/-- A row that compares the bits from `k` up holds exactly the `2^k` addresses from its pattern on. -/
theorem rowHits_iff {α : Type} (r : AddrRow α) (a : Addr) (k : Nat) (hk : k ≤ 16)
    (hm : r.mask = BitVec.allOnes 16 <<< k) (hp : r.pattern.toNat % 2 ^ k = 0) :
    rowHits r a = true ↔ r.pattern.toNat ≤ a.toNat ∧ a.toNat < r.pattern.toNat + 2 ^ k := by
  have h1 : (a &&& r.mask).toNat = a.toNat / 2 ^ k * 2 ^ k := by
    have h2 : a &&& r.mask = a >>> k <<< k := by
      rw [hm]
      apply BitVec.eq_of_getLsbD_eq
      intro i hi
      rw [BitVec.getLsbD_and, BitVec.getLsbD_shiftLeft, BitVec.getLsbD_shiftLeft, BitVec.getLsbD_ushiftRight,
        BitVec.getLsbD_allOnes]
      by_cases h : i < k
      · simp [h]
      · simp [h, hi, show k + (i - k) = i by omega, show i - k < 16 by omega]
    have h3 : a.toNat / 2 ^ k * 2 ^ k < 2 ^ 16 :=
      lt_of_le_of_lt (Nat.div_mul_le_self _ _) a.isLt
    rw [h2, BitVec.toNat_shiftLeft, BitVec.toNat_ushiftRight, Nat.shiftLeft_eq, Nat.shiftRight_eq_div_pow,
      Nat.mod_eq_of_lt h3]
  rw [rowHits, beq_iff_eq, addr_eq_iff, h1]
  have hpos : 0 < 2 ^ k := Nat.two_pow_pos k
  have hd := Nat.div_add_mod a.toNat (2 ^ k)
  have hl := Nat.mod_lt a.toNat hpos
  have hq := Nat.div_add_mod r.pattern.toNat (2 ^ k)
  rw [hp] at hq
  rw [mul_comm (2 ^ k)] at hd hq
  constructor
  · intro h
    omega
  · rintro ⟨h4, h5⟩
    have h6 : r.pattern.toNat / 2 ^ k ≤ a.toNat / 2 ^ k := Nat.div_le_div_right h4
    have h7 : a.toNat / 2 ^ k < r.pattern.toNat / 2 ^ k + 1 := by
      rw [Nat.div_lt_iff_lt_mul hpos, Nat.add_mul, one_mul]
      omega
    have h8 : a.toNat / 2 ^ k = r.pattern.toNat / 2 ^ k := by omega
    rw [h8]
    omega

end Sys2Proof.Machine
end

