-- ==== Sys2Proof/Laws/Write.lean ====
section
/-! SUPPORT. What the write path can do, said once: it draws no answer, takes no request and gives no response; it only
appends to the trace; and it keeps the canonical form. -/

namespace Sys2Proof.Machine

/-- The DMA copy is exactly its port calls, in ascending order, and changes nothing else (R181). -/
theorem dmaCopy_eq (src : Addr) (n i : Nat) (s : State) :
    dmaCopy src n i s =
      { s with trace := s.trace ++
          (List.range' i n).map (fun k => .oamWr (offsetAddr dmaDst k) (byteAt s (offsetAddr src k))) } := by
  induction n generalizing i s with
  | zero => simp [dmaCopy]
  | succ n ih =>
    rw [dmaCopy, ih]
    simp only [List.range'_succ, callWrite, record, List.append_assoc, List.map_cons, List.singleton_append]
    rfl

/-- What a write can be: stores of bytes on a state that differs from `s` in its store alone, then port calls. -/
def WriteShape (s t : State) : Prop :=
  t.requests = s.requests ∧ t.answers = s.answers ∧ t.drawn = s.drawn ∧ t.responses = s.responses ∧
    s.trace <+: t.trace ∧ (StoreCanonical s → StoreCanonical t)

theorem writeShape_refl (s : State) : WriteShape s s := ⟨rfl, rfl, rfl, rfl, List.prefix_refl _, id⟩

theorem writeShape_trans {s t u : State} (h₁ : WriteShape s t) (h₂ : WriteShape t u) : WriteShape s u := by
  obtain ⟨a1, a2, a3, a4, a5, a6⟩ := h₁
  obtain ⟨b1, b2, b3, b4, b5, b6⟩ := h₂
  exact ⟨b1.trans a1, b2.trans a2, b3.trans a3, b4.trans a4, a5.trans b5, b6 ∘ a6⟩

theorem writeShape_putByte (s : State) (a : Addr) (d : Byte) : WriteShape s (putByte s a d) :=
  ⟨rfl, rfl, rfl, rfl, List.prefix_refl _, fun h => putByte_canonical h a d⟩

theorem writeShape_callWrite (e : PortEvent) (s : State) : WriteShape s (callWrite e s) :=
  ⟨rfl, rfl, rfl, rfl, List.prefix_append _ _, id⟩

theorem writeShape_dmaCopy (src : Addr) (n i : Nat) (s : State) : WriteShape s (dmaCopy src n i s) := by
  rw [dmaCopy_eq]
  exact ⟨rfl, rfl, rfl, rfl, List.prefix_append _ _, id⟩

theorem writeShape_writeWram (a : Addr) (d : Byte) (s : State) : WriteShape s (writeWram a d s) := by
  unfold writeWram
  split
  · exact writeShape_trans (writeShape_putByte s a d) (writeShape_putByte _ _ _)
  · exact writeShape_putByte s a d

theorem writeShape_writeEcho (a : Addr) (d : Byte) (s : State) : WriteShape s (writeEcho a d s) :=
  writeShape_trans (writeShape_putByte s a d) (writeShape_putByte _ _ _)

theorem writeShape_writeLcdc (d : Byte) (s : State) : WriteShape s (writeLcdc d s) := by
  unfold writeLcdc lcdOffReset
  split
  · exact writeShape_putByte _ _ _
  · exact writeShape_trans (writeShape_putByte _ _ _)
      (writeShape_trans (writeShape_putByte _ _ _) (writeShape_putByte _ _ _))

theorem writeShape_writeDma (d : Byte) (s : State) : WriteShape s (writeDma d s) :=
  writeShape_trans (writeShape_putByte _ _ _) (writeShape_dmaCopy _ _ _ _)

theorem writeShape_ite {c : Prop} [Decidable c] {s t u : State} (ht : WriteShape s t) (hu : WriteShape s u) :
    WriteShape s (if c then t else u) := by
  split
  · exact ht
  · exact hu

/-- Everything a write leaves alone. -/
theorem busWrite_shape (a : Addr) (d : Byte) (s : State) : WriteShape s (busWrite a d s) := by
  unfold busWrite
  refine writeShape_ite (writeShape_callWrite _ s) ?_
  refine writeShape_ite (writeShape_writeWram a d s) ?_
  refine writeShape_ite (writeShape_writeEcho a d s) ?_
  refine writeShape_ite (writeShape_callWrite _ s) ?_
  refine writeShape_ite (writeShape_writeLcdc d s) ?_
  refine writeShape_ite (writeShape_refl s) ?_
  refine writeShape_ite (writeShape_putByte _ _ _) ?_
  refine writeShape_ite (writeShape_putByte _ _ _) ?_
  refine writeShape_ite (writeShape_callWrite _ s) ?_
  refine writeShape_ite (writeShape_callWrite _ s) ?_
  exact writeShape_ite (writeShape_writeDma d s) (writeShape_putByte _ _ _)

/-- Everything a 16-bit write leaves alone. -/
theorem busWrite16_shape (a : Addr) (w : Half) (s : State) : WriteShape s (busWrite16 a w s) :=
  writeShape_trans (busWrite_shape _ _ _) (busWrite_shape _ _ _)

/-- The DMA write, whole (R181). -/
theorem writeDma_eq (d : Byte) (s : State) :
    writeDma d s =
      { putByte s dmaAddr d with
        trace := s.trace ++ (List.range dmaLen).map (fun k =>
          .oamWr (offsetAddr dmaDst k) (byteAt (putByte s dmaAddr d) (offsetAddr (dmaSource d) k))) } := by
  rw [writeDma, dmaCopy_eq, ← List.range_eq_range']
  rfl

end Sys2Proof.Machine
end

