-- ==== Sys2Proof/Tests/Slice0.lean ====
section
/-! SUPPORT. The model's own tests. Expected values come from spec/: the words of `30_encoding.md` (R91, R92, R98, R103) and the
vectors of `95_test_vectors.md`. Then one witness for every statement with hypotheses. -/

namespace Sys2Proof.Tests

open Sys2Proof Sys2Proof.Machine

/-! ## Helpers -/

/-- A state whose next request is `r`. -/
def asking (r : Request) (s : State) : State := { s with requests := [r] }

/-- The construction state with the collaborators' coming answers. -/
def answering (bytes : List Byte) : State := { State.reset with answers := bytes }

/-- The state after one request given as text (R103). -/
def after (line : String) (s : State) : Option State :=
  match assemble line with
  | none => none
  | some r => match step (asking r s) with
    | .next t => some t
    | .fault _ => none
    | .refused _ => none

/-- The response and the port calls of one request. -/
def seen (line : String) (s : State) : Option (List Response × List PortEvent) :=
  (after line s).map (fun t => (t.responses, t.trace))

/-- The store after one request from construction, as its list of changed bytes. -/
def stored (line : String) (s : State) : Option Memory := (after line s).map (fun t => t.store)

/-- The refusal of a request word, if it is refused. -/
def refusal (w : RequestWord) : Option Refusal :=
  match step (asking (.word w) State.reset) with
  | .refused r => some r
  | .next _ => none
  | .fault _ => none

/-- The instruction read from a request. -/
def read? (r : Request) : Option Instr :=
  match decode r with
  | .ok i => some i
  | .error _ => none

/-! ## WellFormed: an ill-formed term for each check -/

theorem test_illformed_reserved : wellFormed (.reserved .cpu 0x8#4 0#36) = false := by decide
theorem test_illformed_readCart : wellFormed (.readCart 0x8000#16) = false := by decide
theorem test_illformed_readIrq : wellFormed (.readIrq 0xFF0E#16) = false := by decide
theorem test_illformed_readVram : wellFormed (.readVram 0xA000#16) = false := by decide
theorem test_illformed_readOam : wellFormed (.readOam 0xFEA0#16) = false := by decide
theorem test_illformed_readPlain : wellFormed (.readPlain 0xFF04#16) = false := by decide
theorem test_illformed_writeCart : wellFormed (.writeCart 0xC000#16 0#8) = false := by decide
theorem test_illformed_writeWram : wellFormed (.writeWram 0xE000#16 0#8) = false := by decide
theorem test_illformed_writeEcho : wellFormed (.writeEcho 0xFE00#16 0#8) = false := by decide
theorem test_illformed_writeVram : wellFormed (.writeVram 0x7FFF#16 0#8) = false := by decide
theorem test_illformed_writeOam : wellFormed (.writeOam 0xFDFF#16 0#8) = false := by decide
theorem test_illformed_writePlain : wellFormed (.writePlain 0xFF46#16 0#8) = false := by decide

/-! ## Decoding: every constructor by a word written out from the spec -/

/-- port, op, addr, data, kind, val in turn (R91). -/
theorem test_decode_bits_setFlag :
    read? (.word 0b1_0110_0000000000000000_0000000000000000_010_1#41) = some (.setFlag .privileged .timer true) := by
  decide

theorem test_decode_bits_write :
    read? (.word 0b0_0001_1100000000000001_0000000000010010_000_0#41) = some (.write .cpu 0xC001#16 0x12#8) := by
  decide

theorem test_decode_read : read? (.word 0x00C00000000#41) = some (.read .cpu 0xC000#16) := by decide
theorem test_decode_write : read? (.word 0x01C00000120#41) = some (.write .cpu 0xC000#16 0x12#8) := by decide
theorem test_decode_read16 : read? (.word 0x02FFFF00000#41) = some (.read16 .cpu 0xFFFF#16) := by decide
theorem test_decode_write16 : read? (.word 0x03FFFEBEEF0#41) = some (.write16 .cpu 0xFFFE#16 0xBEEF#16) := by decide
theorem test_decode_forceWrite : read? (.word 0x14FF4400900#41) = some (.forceWrite 0xFF44#16 0x90#8) := by decide
theorem test_decode_setEnable : read? (.word 0x05000000009#41) = some (.setEnable .cpu .joypad true) := by decide
theorem test_decode_setFlag : read? (.word 0x06000000005#41) = some (.setFlag .cpu .timer true) := by decide
theorem test_decode_intPending : read? (.word 0x07000000008#41) = some (.intPending .cpu .joypad) := by decide
theorem test_decode_classify : read? (.word 0x18000000000#41) = some (.classify .privileged 0x0000#16) := by decide
theorem test_decode_reserved : read? (.word 0x1F000000000#41) = some (.reserved .privileged 0xF#4 0#36) := by decide

/-- The read cases at a boundary address of each (R101). -/
theorem test_decode_read_cases :
    read? (.readAt 0xBFFF#16) = some (.readCart 0xBFFF#16) ∧ read? (.readAt 0xFFFF#16) = some (.readIrq 0xFFFF#16) ∧
    read? (.readAt 0x9FFF#16) = some (.readVram 0x9FFF#16) ∧ read? (.readAt 0xFE9F#16) = some (.readOam 0xFE9F#16) ∧
    read? (.readAt 0xFF00#16) = some .readJoyp ∧ read? (.readAt 0xFF04#16) = some .readDiv ∧
    read? (.readAt 0xFEA0#16) = some (.readPlain 0xFEA0#16) := by decide

/-- The write cases at a boundary address of each (R102). -/
theorem test_decode_write_cases :
    read? (.writeAt 0x7FFF#16 1#8) = some (.writeCart 0x7FFF#16 1#8) ∧
    read? (.writeAt 0xDFFF#16 1#8) = some (.writeWram 0xDFFF#16 1#8) ∧
    read? (.writeAt 0xFDFF#16 1#8) = some (.writeEcho 0xFDFF#16 1#8) ∧
    read? (.writeAt 0xFF04#16 1#8) = some (.writeDiv 1#8) ∧ read? (.writeAt 0xFF40#16 1#8) = some (.writeLcdc 1#8) ∧
    read? (.writeAt 0xFF44#16 1#8) = some (.writeLy 1#8) ∧ read? (.writeAt 0xFF41#16 1#8) = some (.writeStat 1#8) ∧
    read? (.writeAt 0xFF00#16 1#8) = some (.writeJoyp 1#8) ∧
    read? (.writeAt 0x8000#16 1#8) = some (.writeVram 0x8000#16 1#8) ∧
    read? (.writeAt 0xFE00#16 1#8) = some (.writeOam 0xFE00#16 1#8) ∧
    read? (.writeAt 0xFF46#16 1#8) = some (.writeDma 1#8) ∧
    read? (.writeAt 0xFF0F#16 1#8) = some (.writePlain 0xFF0F#16 1#8) := by decide

/-- The refused words of `95_test_vectors.md` 2.9. -/
theorem test_refused_words :
    refusal 0x09C00000000#41 = some .reservedOp ∧ refusal 0x1F000000000#41 = some .reservedOp ∧
    refusal 0x0500000000B#41 = some .badKind ∧ refusal 0x0700000000E#41 = some .badKind ∧
    refusal 0x04FF4400900#41 = some .forceOnCpuPort ∧ refusal 0x01C00001230#41 = some .nonZeroUnusedField ∧
    refusal 0x00C00000010#41 = some .nonZeroUnusedField ∧ refusal 0x06FF0F00005#41 = some .nonZeroUnusedField ∧
    refusal 0x07000000005#41 = some .nonZeroUnusedField ∧ refusal 0x08FF0F00002#41 = some .nonZeroUnusedField := by
  decide

/-- Words numbered as the opcode table numbers them. -/
theorem test_table_words :
    decodeTableWord 48 0x14000000000 = some (.forceWrite 0#16 0#8) ∧
    decodeTableWord 16 0xFF0F = some (.readIrq 0xFF0F#16) ∧
    decodeTableWord 16 0xFF41 = some (.writeStat 0#8) := by decide

/-- The text forms of R103, with the words it gives. -/
theorem test_text_forms :
    assemble "WRITE 0xC000, 0x12" = some (.word 0x01C00000120#41) ∧
    assemble "INT_PENDING Timer" = some (.word 0x07000000004#41) ∧
    assemble "CLASSIFY 0xFF0F" = some (.word 0x08FF0F00000#41) ∧
    assemble "WRITE16 0xFFFE, 0xBEEF" = some (.word 0x03FFFEBEEF0#41) ∧
    assemble "FORCE_WRITE 0xFF44, 0x90" = none := by decide

/-! ## Reading (`95_test_vectors.md` 2.1, 2.2) -/

theorem test_classify_last_echo : seen "CLASSIFY 0xFDFF" State.reset = some ([.region 6#4], []) := by decide
theorem test_classify_if : seen "CLASSIFY 0xFF0F" State.reset = some ([.region 9#4], []) := by decide
theorem test_read_cart : seen "READ 0x4ABC" (answering [0xC3]) = some ([.byte 0xC3], [.cartRd 0x4ABC 0xC3]) := by decide
theorem test_read_oam : seen "READ 0xFE9F" (answering [0x0A]) = some ([.byte 0x0A], [.oamRd 0xFE9F 0x0A]) := by decide
theorem test_read_vram : seen "READ 0x8000" (answering [0x5A]) = some ([.byte 0x5A], [.vramRd 0x8000 0x5A]) := by decide
theorem test_read_joyp : seen "READ 0xFF00" (answering [0xDE]) = some ([.byte 0xDE], [.joypRd 0xCF 0xDE]) := by decide
theorem test_read_div : seen "READ 0xFF04" (answering [0xAB]) = some ([.byte 0xAB], [.divRd 0xAB]) := by decide
theorem test_read_if : seen "READ 0xFF0F" State.reset = some ([.byte 0xE1], []) := by decide
theorem test_read_ie : seen "READ 0xFFFF" State.reset = some ([.byte 0xE0], []) := by decide
theorem test_read_ly : seen "READ 0xFF44" State.reset = some ([.byte 0x91], []) := by decide

/-- Vector 18: a forced echo byte is not seen in work RAM. -/
theorem test_read_after_force :
    ((after "priv: FORCE_WRITE 0xE000, 0x99" State.reset).bind (seen "READ 0xC000")) =
      some ([.none, .byte 0x00], []) := by decide

theorem test_read16_wrap : seen "READ16 0xFFFF" (answering [0xC3]) = some ([.half 0xC3E0], [.cartRd 0x0000 0xC3]) := by
  decide

theorem test_read16_two_ports :
    seen "READ16 0x7FFF" (answering [0xC3, 0x5A]) =
      some ([.half 0x5AC3], [.cartRd 0x7FFF 0xC3, .vramRd 0x8000 0x5A]) := by decide

/-- With no answer waiting, the answer is the free value, and the draw is counted. -/
theorem test_read_free_answer :
    (after "READ 0x0000" State.reset).map (fun t => (t.responses, t.drawn)) =
      some ([.byte (Config.freeAnswer 0)], 1) := by rfl

/-! ## Writing (2.3, 2.4, 2.6, 2.7) -/

theorem test_write_cart : seen "WRITE 0x1234, 0x01" State.reset = some ([.none], [.cartWr 0x1234 0x01]) := by decide
theorem test_write_wram_mirrored : stored "WRITE 0xDDFF, 0x22" State.reset = some [(0xDDFF, 0x22), (0xFDFF, 0x22)] := by
  decide
theorem test_write_wram_unmirrored : stored "WRITE 0xDE00, 0x33" State.reset = some [(0xDE00, 0x33)] := by decide
theorem test_write_echo : stored "WRITE 0xE000, 0x66" State.reset = some [(0xC000, 0x66), (0xE000, 0x66)] := by decide
theorem test_write_div : seen "WRITE 0xFF04, 0x5A" State.reset = some ([.none], [.divReset]) := by decide
theorem test_write_ly : stored "WRITE 0xFF44, 0x00" State.reset = some [] := by decide
theorem test_write_stat : stored "WRITE 0xFF41, 0xFF" State.reset = some [(0xFF41, 0xF9)] := by decide
theorem test_write_joyp : stored "WRITE 0xFF00, 0x2A" State.reset = some [(0xFF00, 0x2F)] := by decide
theorem test_write_vram : seen "WRITE 0x9FFF, 0x12" State.reset = some ([.none], [.vramWr 0x9FFF 0x12]) := by decide
theorem test_write_oam : seen "WRITE 0xFE00, 0x34" State.reset = some ([.none], [.oamWr 0xFE00 0x34]) := by decide
theorem test_write_if : stored "WRITE 0xFF0F, 0x00" State.reset = some [(0xFF0F, 0x00)] := by decide

/-- A byte written back to its construction value is no longer listed. -/
theorem test_write_back :
    ((after "WRITE 0xFF47, 0xE4" State.reset).bind (stored "WRITE 0xFF47, 0xFC")) = some [] := by decide

/-- 2.4: on to off resets, on to on does not. -/
theorem test_write_lcdc_off :
    stored "WRITE 0xFF40, 0x11" State.reset = some [(0xFF40, 0x11), (0xFF41, 0x80), (0xFF44, 0x00)] := by decide
theorem test_write_lcdc_stays_on : stored "WRITE 0xFF40, 0x93" State.reset = some [(0xFF40, 0x93)] := by decide

/-- 2.4: off to on resets too (conflict C2). -/
theorem test_write_lcdc_on :
    ((after "priv: FORCE_WRITE 0xFF40, 0x11" State.reset).bind (stored "WRITE 0xFF40, 0x91")) =
      some [(0xFF41, 0x80), (0xFF44, 0x00)] := by decide

set_option maxRecDepth 20000 in
/-- 2.5 vector 4: a forced byte of a VideoRAM page is what the copy sends, as its sixth call. -/
theorem test_write_dma :
    ((after "priv: FORCE_WRITE 0x8005, 0x55" State.reset).bind (after "WRITE 0xFF46, 0x80")).map
      (fun t => (t.trace.length, t.trace[5]?, t.trace[159]?)) =
      some (160, some (.oamWr 0xFE05 0x55), some (.oamWr 0xFE9F 0x00)) := by decide

theorem test_write16_wrap :
    (after "WRITE16 0xFFFF, 0x1234" State.reset).map (fun t => (t.store, t.trace)) =
      some ([(0xFFFF, 0x34)], [.cartWr 0x0000 0x12]) := by decide
theorem test_write16_ly_discarded : stored "WRITE16 0xFF43, 0x9901" State.reset = some [(0xFF43, 0x01)] := by decide
theorem test_force_stat : stored "priv: FORCE_WRITE 0xFF41, 0xFF" State.reset = some [(0xFF41, 0xFF)] := by decide
theorem test_force_dma : seen "priv: FORCE_WRITE 0xFF46, 0x12" State.reset = some ([.none], []) := by decide

/-! ## The interrupt view (2.8) -/

theorem test_setEnable : stored "SET_ENABLE Timer, 1" State.reset = some [(0xFFFF, 0xE4)] := by decide
theorem test_setFlag : stored "SET_FLAG VBlank, 0" State.reset = some [(0xFF0F, 0xE0)] := by decide
theorem test_intPending_reset : seen "INT_PENDING VBlank" State.reset = some ([.flag false], []) := by decide
theorem test_intPending_enabled :
    ((after "WRITE 0xFFFF, 0x01" State.reset).bind (seen "INT_PENDING VBlank")) = some ([.none, .flag true], []) := by
  decide

/-- R245: the requester's order decides between two pending kinds. -/
theorem test_firstPending :
    (after "WRITE16 0xFFFE, 0x1F00" State.reset).map (fun t =>
      (firstPending [.joypad, .timer, .vblank] t, firstPending [.timer] t)) = some (some .vblank, none) := by decide

/-! ## Witnesses: the hypotheses of each statement, met -/

/-- A state with a mirrored byte in work RAM and echo RAM, and forced bytes elsewhere. -/
def busy : State :=
  putByte (putByte (putByte (answering [0x42]) 0xC010#16 0x11#8) 0xE010#16 0x11#8) 0x8005#16 0x55#8

theorem witness_DecodeOfEncodeIsInstruction :
    [Instr.reserved .cpu 9#4 1#36, .readCart 0xBFFF#16, .readIrq 0xFF0F#16, .readVram 0x8000#16, .readOam 0xFE9F#16,
      .readPlain 0xFF7F#16, .writeCart 0x0000#16 1#8, .writeWram 0xC000#16 1#8, .writeEcho 0xFDFF#16 1#8,
      .writeVram 0x9FFF#16 1#8, .writeOam 0xFE00#16 1#8, .writePlain 0xFFFF#16 1#8, .readJoyp,
      .setFlag .privileged .joypad true].all wellFormed = true := by decide

theorem witness_EncodeOfDecodeIsRequest :
    decode (.word 0x14FF4400900#41) = .ok (.forceWrite 0xFF44#16 0x90#8) ∧
    decode (.readAt 0xFE80#16) = .ok (.readOam 0xFE80#16) ∧
    decode (.writeAt 0xF800#16 0x11#8) = .ok (.writeEcho 0xF800#16 0x11#8) := by decide

theorem witness_ReadSelectsExactlyOneCase :
    isCartAddr 0x0000#16 = true ∧ isCartAddr 0x7FFF#16 = true ∧ isCartAddr 0xA000#16 = true ∧ isCartAddr 0xBFFF#16 = true ∧
    isIrqAddr 0xFF0F#16 = true ∧ isIrqAddr 0xFFFF#16 = true ∧ isVramAddr 0x8000#16 = true ∧ isVramAddr 0x9FFF#16 = true ∧
    isOamAddr 0xFE00#16 = true ∧ isOamAddr 0xFE9F#16 = true ∧ isPlainReadAddr 0xC000#16 = true ∧
    isPlainReadAddr 0xFDFF#16 = true ∧ isPlainReadAddr 0xFEA0#16 = true ∧ isPlainReadAddr 0xFF46#16 = true ∧
    isPlainReadAddr 0xFFFE#16 = true := by decide

theorem witness_WriteSelectsExactlyOneCase :
    isCartAddr 0xBFFF#16 = true ∧ isWramAddr 0xC000#16 = true ∧ isWramAddr 0xDFFF#16 = true ∧
    isEchoAddr 0xE000#16 = true ∧ isEchoAddr 0xFDFF#16 = true ∧ isVramAddr 0x9FFF#16 = true ∧
    isOamAddr 0xFE9F#16 = true ∧ isPlainWriteAddr 0xFEA0#16 = true ∧ isPlainWriteAddr 0xFEFF#16 = true ∧
    isPlainWriteAddr 0xFF0F#16 = true ∧ isPlainWriteAddr 0xFF80#16 = true ∧ isPlainWriteAddr 0xFFFF#16 = true := by decide

/-- One word of each kind, refused and accepted, stands as the next request. -/
theorem witness_RefusedExactlyWhenR98Says :
    (asking (.word 0x09C00000000#41) busy).requests = .word 0x09C00000000#41 :: [] ∧ reservedOpWord 0x09C00000000#41 ∧
    badKindWord 0x0500000000B#41 ∧ badKindWord 0x0700000000E#41 ∧ unusedNonZeroWord 0x00C00000010#41 ∧
    unusedNonZeroWord 0x01C00001230#41 ∧ unusedNonZeroWord 0x03C00000001#41 ∧ unusedNonZeroWord 0x06FF0F00005#41 ∧
    unusedNonZeroWord 0x07000000005#41 ∧ forceOnCpuWord 0x04FF4400900#41 ∧ ¬ reservedOpWord 0x00C00000000#41 ∧
    ¬ badKindWord 0x00C00000000#41 ∧ ¬ unusedNonZeroWord 0x00C00000000#41 ∧ ¬ forceOnCpuWord 0x00C00000000#41 :=
  ⟨rfl, by decide, by decide, by decide, by decide, by decide, by decide, by decide, by decide, by decide, by decide,
    by decide, by decide, by decide⟩

theorem witness_RefusalReasonHolds :
    step (asking (.word 0x09C00000000#41) busy) = .refused .reservedOp ∧
    step (asking (.word 0x0500000000B#41) busy) = .refused .badKind ∧
    step (asking (.word 0x08FF0F00002#41) busy) = .refused .nonZeroUnusedField ∧
    step (asking (.word 0x04FF4400900#41) busy) = .refused .forceOnCpuPort := ⟨rfl, rfl, rfl, rfl⟩

theorem witness_ReservedOpIsRefused : 9 ≤ (0x9#4).toNat ∧ 9 ≤ (0xF#4).toNat := by decide

/-- All three clauses: an accepted request, a rejected one, none. -/
theorem witness_StepRunsTheDecodedRequest :
    (asking (.word 0x00C00000000#41) busy).requests = .word 0x00C00000000#41 :: [] ∧
    decode (.word 0x00C00000000#41) = .ok (.read .cpu 0xC000#16) ∧
    decode (.word 0x04FF4400900#41) = .error .forceOnCpuPort ∧ busy.requests = [] := by decide

theorem witness_AcceptedRequestsComplete :
    decode (.readAt 0x0000#16) = .ok (.readCart 0x0000#16) ∧
    ∀ p op bits, Instr.readCart 0x0000#16 ≠ .reserved p op bits := by
  refine ⟨by decide, fun p op bits h => ?_⟩
  cases h

theorem witness_ConstructionState :
    (0xFF03#16 : Addr) ∉ [0xFF00#16, 0xFF01#16, 0xFF02#16, 0xFF04#16, 0xFF05#16, 0xFF06#16, 0xFF07#16, 0xFF0F#16,
      0xFF40#16, 0xFF41#16, 0xFF42#16, 0xFF43#16, 0xFF44#16, 0xFF45#16, 0xFF46#16, 0xFF47#16, 0xFF4A#16, 0xFF4B#16,
      0xFFFF#16] := by simp

/-- Unlisted addresses at the ends of the space and between the seeds read 0x00. -/
theorem test_reset_unlisted :
    byteAt State.reset 0x0000#16 = 0x00#8 ∧ byteAt State.reset 0xFF03#16 = 0x00#8 ∧
    byteAt State.reset 0xFFFE#16 = 0x00#8 := by decide

/-- A canonical state with bytes listed, whose next step is a mirrored write. -/
theorem witness_StoreStaysCanonical :
    Memory.wf busy.store ∧ busy.store.length = 3 ∧
    ∃ t, step (asking (.writeAt 0xDDFF#16 0x22#8) busy) = .next t := ⟨by decide, by decide, _, rfl⟩

theorem witness_ConstructionStoreCanonical :
    StoreCanonical (answering [1#8]) ∧ ∀ a, byteAt (answering [1#8]) a = byteAt State.reset a :=
  ⟨⟨List.Pairwise.nil, by simp [answering, State.reset]⟩, fun _ => rfl⟩

/-- The mirror holds in the construction state; a write and a force at each end of the mirror meet the clauses. -/
theorem witness_EchoMirrorHoldsUntilForced :
    isMirroredWork 0xC000#16 = true ∧ isMirroredWork 0xDDFF#16 = true ∧ isMirroredWork 0xDE00#16 = false ∧
    isEchoAddr 0xE000#16 = true ∧ isEchoAddr 0xFDFF#16 = true ∧
    nextInstr (asking (.writeAt 0xDDFF#16 0x22#8) State.reset) = some (.writeWram 0xDDFF#16 0x22#8) ∧
    (∃ t, step (asking (.writeAt 0xDDFF#16 0x22#8) State.reset) = .next t) ∧
    (0x99#8) ≠ byteAt (asking (.readAt 0xC000#16) State.reset) 0xE000#16 ∧
    ∃ t, exec (.forceWrite 0xE000#16 0x99#8) (asking (.readAt 0xC000#16) State.reset) = .next t :=
  ⟨by decide, by decide, by decide, by decide, by decide, by decide, ⟨_, rfl⟩, by decide, _, rfl⟩

theorem witness_forcesMirror_not : ¬ forcesMirror (.writeWram 0xDDFF#16 0x22#8) := by
  rintro ⟨a, d, h, -⟩
  cases h

/-- The mirror holds in a state with a request waiting: every byte of it is 0x00 at construction. -/
theorem witness_EchoHolds (r : Request) : EchoHolds (asking r State.reset) := by
  intro a ha
  have hm := inRange_iff.mp ha
  have he : (echoOf a).toNat < 0xFF00 := by
    simp only [echoOf, echoOffset]
    bv_omega
  have hr : ∀ x, byteAt (asking r State.reset) x = resetByte x.toNat := fun _ => rfl
  rw [hr, hr, resetByte_below he, resetByte_below (by omega)]

theorem witness_TraceAndResponsesOnlyGrow :
    ∃ t, step (asking (.readAt 0x0000#16) busy) = .next t ∧ t.trace = [.cartRd 0x0000#16 0x42#8] := ⟨_, rfl, rfl⟩

theorem witness_NonAuthoritativeBytesOnlyForced :
    nonAuthoritative 0x0000#16 = true ∧ nonAuthoritative 0xBFFF#16 = true ∧ nonAuthoritative 0xFE00#16 = true ∧
    nonAuthoritative 0xFE9F#16 = true ∧
    nextInstr (asking (.writeAt 0xBFFF#16 1#8) busy) = some (.writeCart 0xBFFF#16 1#8) ∧
    ¬ forcesAt 0xBFFF#16 (.writeCart 0xBFFF#16 1#8) ∧ ∃ t, step (asking (.writeAt 0xBFFF#16 1#8) busy) = .next t := by
  refine ⟨by decide, by decide, by decide, by decide, by decide, ?_, _, rfl⟩
  rintro ⟨d, h⟩
  cases h

theorem witness_NonAuthoritativeBytesHidden :
    nonAuthoritative 0x8005#16 = true ∧ wellFormed (.readVram 0x8005#16) = true ∧ startsDma (.readVram 0x8005#16) = false ∧
    startsDma (.write16 .cpu 0xFF45#16 0#16) = true ∧ startsDma (.forceWrite 0xFF46#16 0#8) = false ∧
    ∃ t, exec (.readVram 0x8005#16) busy = .next t := ⟨by decide, by decide, by decide, by decide, by decide, _, rfl⟩

theorem witness_InterruptBytesChangeOnlyWhenNamed :
    nextInstr (asking (.writeAt 0xFF40#16 0#8) busy) = some (.writeLcdc 0#8) ∧
    namesTarget 0xFF0F#16 (.writeLcdc 0#8) = false ∧ namesTarget 0xFFFF#16 (.writeLcdc 0#8) = false ∧
    ∃ t, step (asking (.writeAt 0xFF40#16 0#8) busy) = .next t := ⟨by decide, by decide, by decide, _, rfl⟩

/-- A write of STAT, and a force elsewhere, meet both clauses. -/
theorem witness_VideoStatusMutators :
    nextInstr (asking (.writeAt 0xFF41#16 0xFF#8) busy) = some (.writeStat 0xFF#8) ∧
    namesTarget 0xFF40#16 (.writeStat 0xFF#8) = false ∧ ¬ forcesAt 0xFF44#16 (.writeStat 0xFF#8) ∧
    ¬ forcesAt 0xFF41#16 (.writeStat 0xFF#8) ∧ ∃ t, step (asking (.writeAt 0xFF41#16 0xFF#8) busy) = .next t := by
  refine ⟨by decide, by decide, ?_, ?_, _, rfl⟩
  · rintro ⟨d, h⟩
    cases h
  · rintro ⟨d, h⟩
    cases h

theorem witness_ReadSideEffects :
    portAddr 0xFF00#16 = true ∧ portAddr 0xFF04#16 = true ∧ portAddr 0xBFFF#16 = true ∧ portAddr 0xC000#16 = false ∧
    portAddr 0xFEA0#16 = false ∧ portAddr 0xFFFF#16 = false := by decide

theorem witness_BytesChangeOnlyAsTabled :
    wellFormed (.writeWram 0xDDFF#16 1#8) = true ∧ namesTarget 0xC010#16 (.writeWram 0xDDFF#16 1#8) = false ∧
    namesTarget (mirrorOf 0xC010#16) (.writeWram 0xDDFF#16 1#8) = false ∧
    namesTarget 0xFF40#16 (.writeWram 0xDDFF#16 1#8) = false ∧ ∃ t, exec (.writeWram 0xDDFF#16 1#8) busy = .next t :=
  ⟨by decide, by decide, by decide, by decide, _, rfl⟩

theorem witness_RepeatedAccessesAgree : portAddr 0xC010#16 = false ∧ portAddr 0xFF0F#16 = false := by decide

/-- The three clauses, at boundary addresses. -/
theorem witness_ReadAfterWrite :
    (isWramAddr 0xDFFF#16 || isEchoAddr 0xDFFF#16 || isPlainWriteAddr 0xDFFF#16 || 0xDFFF#16 == lcdcAddr ||
      0xDFFF#16 == dmaAddr) = true ∧ (0xDFFF#16 : Addr) ≠ 0xFF0F#16 ∧
    isMirroredWork 0xDDFF#16 = true ∧ echoOf 0xDDFF#16 = 0xFDFF#16 ∧ isEchoAddr 0xE000#16 = true ∧
    workOf 0xE000#16 = 0xC000#16 := by decide

theorem witness_SixteenBitRoundTrip :
    roundTripAddr 0xC000#16 = true ∧ roundTripAddr (0xC000#16 + 1#16) = true ∧ roundTripAddr 0xFF45#16 = true ∧
    roundTripAddr (0xFF45#16 + 1#16) = true ∧ roundTripAddr 0xFFFE#16 = true ∧ roundTripAddr (0xFFFE#16 + 1#16) = false := by
  decide

theorem witness_EchoMapIsBijection :
    isEchoAddr 0xE000#16 = true ∧ isEchoAddr 0xFDFF#16 = true ∧ isMirroredWork 0xDDFF#16 = true ∧
    inRange 0xDE00 0xDFFF 0xDE00#16 = true ∧ inRange 0xDE00 0xDFFF 0xDFFF#16 = true := by decide

/-- The last address of each region, and the code of R95 that `CLASSIFY` responds with there. -/
theorem witness_ClassifyGivesTheRegion :
    [0x3FFF#16, 0x7FFF#16, 0x9FFF#16, 0xBFFF#16, 0xCFFF#16, 0xDFFF#16, 0xFDFF#16, 0xFE9F#16, 0xFEFF#16, 0xFF7F#16,
      0xFFFE#16, 0xFFFF#16].map (fun a => regionCode (classify a)) = (List.range 12).map (BitVec.ofNat 4) := by decide

theorem witness_CartridgeRead : isCartAddr 0x0000#16 = true ∧ isCartAddr 0xBFFF#16 = true := by decide
theorem witness_VideoRead : isVramAddr 0x9FFF#16 = true ∧ isOamAddr 0xFE00#16 = true := by decide
theorem witness_PlainRead : isPlainReadAddr 0xFF41#16 = true ∧ isPlainReadAddr 0xFF80#16 = true := by decide
theorem witness_CartridgeWrite : isCartAddr 0x2000#16 = true ∧ isCartAddr 0xA000#16 = true := by decide

theorem witness_WorkRamWrite :
    0xC000 ≤ (0xDDFF#16).toNat ∧ (0xDDFF#16).toNat ≤ 0xDDFF ∧ 0xDE00 ≤ (0xDE00#16).toNat ∧ (0xDE00#16).toNat ≤ 0xDFFF := by
  decide

theorem witness_EchoRamWrite : 0xE000 ≤ (0xE000#16).toNat ∧ (0xFDFF#16).toNat ≤ 0xFDFF := by decide

/-- On and stays on, and each of the other three cases. -/
theorem witness_LcdcWrite :
    (byteAt State.reset 0xFF40#16).getLsbD 7 = true ∧ (0x93#8).getLsbD 7 = true ∧ (0x11#8).getLsbD 7 = false ∧
    (byteAt (putByte State.reset 0xFF40#16 0x7F#8) 0xFF40#16).getLsbD 7 = false := by decide

theorem witness_VideoWrite : isVramAddr 0x8000#16 = true ∧ isOamAddr 0xFE9F#16 = true := by decide
theorem witness_PlainWrite : isPlainWriteAddr 0xFF0F#16 = true ∧ isPlainWriteAddr 0xFFFF#16 = true := by decide

/-- The `kind` codes of the refusal clauses of the three interrupt-view statements. -/
theorem witness_SetEnableWritesOneBit : 5 ≤ (5#3).toNat ∧ 5 ≤ (7#3).toNat := by decide

theorem witness_FirstPendingFollowsPriority :
    (∀ k, k ∈ [Kind.vblank, .lcdStat, .timer, .serial, .joypad]) ∧
    firstPending [.vblank, .lcdStat, .timer, .serial, .joypad] (putByte State.reset 0xFFFF#16 0x1F#8) = some .vblank ∧
    firstPending [.vblank, .lcdStat, .timer, .serial, .joypad] State.reset = none := by
  refine ⟨fun k => by cases k <;> simp, by decide, by decide⟩

end Sys2Proof.Tests
end

section
/-! The decoder answers well-formed instructions only: the rows of R101 and R102 as ranges of addresses, the address sets
of the dispatch cases, and the fields of a request word. -/

namespace Sys2Proof.Machine

/-! ## Rows as ranges -/

/-- The row compares the top bits only, and its pattern has zeros below them (R100). -/
abbrev TopBitsRow {α : Type} (r : AddrRow α) : Prop :=
  ∃ k < 17, r.mask = BitVec.allOnes 16 <<< k ∧ r.pattern.toNat % 2 ^ k = 0

/-- The mask of the bits from `k` up leaves out the last `2^k` numbers. -/
theorem allOnes_shiftLeft_toNat : ∀ k < 17, (BitVec.allOnes 16 <<< k).toNat = 65536 - 2 ^ k := by decide

theorem rowHits_range {α : Type} {r : AddrRow α} (hr : TopBitsRow r) (a : Addr) :
    rowHits r a = true ↔
      r.pattern.toNat ≤ a.toNat ∧ a.toNat < r.pattern.toNat + (65536 - r.mask.toNat) := by
  obtain ⟨k, hk, hm, hp⟩ := hr
  have hsize : 2 ^ k ≤ 65536 := Nat.pow_le_pow_right (n := 2) (by omega) (show k ≤ 16 by omega)
  rw [rowHits_iff r a k (by omega) hm hp, hm, allOnes_shiftLeft_toNat k hk, Nat.sub_sub_self hsize]

/-- An address that no row holds lies outside every row's range. -/
theorem outside_of_find?_eq_none {α : Type} {rows : List (AddrRow α)} {a : Addr} (hrows : ∀ r ∈ rows, TopBitsRow r)
    (h : rows.find? (fun r => rowHits r a) = none) :
    ∀ r ∈ rows, ¬ (r.pattern.toNat ≤ a.toNat ∧ a.toNat < r.pattern.toNat + (65536 - r.mask.toNat)) := fun r hr => by
  rw [← rowHits_range (hrows r hr) a]
  exact List.find?_eq_none.mp h r hr

theorem readRows_topBits : ∀ r ∈ readRows, TopBitsRow r := by decide

theorem writeRows_topBits : ∀ r ∈ writeRows, TopBitsRow r := by decide

/-! ## The addresses of a dispatch case -/

/-- The "addresses" column of R101. -/
def readCaseAddr : ReadCase → Addr → Bool
  | .cart, a => isCartAddr a
  | .irq, a => isIrqAddr a
  | .vram, a => isVramAddr a
  | .oam, a => isOamAddr a
  | .joyp, a => a == joypAddr
  | .div, a => a == divAddr
  | .plain, a => isPlainReadAddr a

/-- The "addresses" column of R102. -/
def writeCaseAddr : WriteCase → Addr → Bool
  | .cart, a => isCartAddr a
  | .wram, a => isWramAddr a
  | .echo, a => isEchoAddr a
  | .div, a => a == divAddr
  | .lcdc, a => a == lcdcAddr
  | .ly, a => a == lyAddr
  | .stat, a => a == statAddr
  | .joyp, a => a == joypAddr
  | .vram, a => isVramAddr a
  | .oam, a => isOamAddr a
  | .dma, a => a == dmaAddr
  | .plain, a => isPlainWriteAddr a

/-- A row of the read map holds addresses of its own case only (R101). -/
theorem readCaseAddr_of_rowHits (a : Addr) :
    ∀ r ∈ readRows, rowHits r a = true → readCaseAddr r.tag a = true := by
  intro r hmem hhit
  have hrange := (rowHits_range (readRows_topBits r hmem) a).mp hhit
  clear hhit
  fin_cases hmem <;>
    simp [readCaseAddr, isCartAddr, isIrqAddr, isVramAddr, isOamAddr, inRange, addr_eq_iff, joypAddr, divAddr]
      at hrange ⊢ <;>
    omega

/-- A row of the write map holds addresses of its own case only (R102). -/
theorem writeCaseAddr_of_rowHits (a : Addr) :
    ∀ r ∈ writeRows, rowHits r a = true → writeCaseAddr r.tag a = true := by
  intro r hmem hhit
  have hrange := (rowHits_range (writeRows_topBits r hmem) a).mp hhit
  clear hhit
  fin_cases hmem <;>
    simp [writeCaseAddr, isCartAddr, isWramAddr, isEchoAddr, isVramAddr, isOamAddr, inRange, addr_eq_iff, divAddr,
      lcdcAddr, lyAddr, statAddr, joypAddr, dmaAddr] at hrange ⊢ <;>
    omega

/-- The read case that the rows select holds the address (R101). -/
theorem readCaseAddr_readCaseOf (a : Addr) : readCaseAddr (readCaseOf a) a = true := by
  unfold readCaseOf
  split
  · next r hr =>
    exact readCaseAddr_of_rowHits a r (List.mem_of_find?_eq_some hr) (by simpa using List.find?_some hr)
  · next hnone =>
    have hmiss := outside_of_find?_eq_none readRows_topBits hnone
    have hlt := a.isLt
    simp [readRows] at hmiss
    simp [readCaseAddr, isPlainReadAddr, inRange, addr_eq_iff]
    omega

/-- The write case that the rows select holds the address (R102). -/
theorem writeCaseAddr_writeCaseOf (a : Addr) : writeCaseAddr (writeCaseOf a) a = true := by
  unfold writeCaseOf
  split
  · next r hr =>
    exact writeCaseAddr_of_rowHits a r (List.mem_of_find?_eq_some hr) (by simpa using List.find?_some hr)
  · next hnone =>
    have hmiss := outside_of_find?_eq_none writeRows_topBits hnone
    have hlt := a.isLt
    simp [writeRows] at hmiss
    simp [writeCaseAddr, isPlainWriteAddr, inRange, addr_eq_iff]
    omega

/-! ## Accepted requests are well formed -/

/-- The call `read(a)` is a well-formed dispatch case (R101). -/
theorem wellFormed_readInstr (a : Addr) : wellFormed (readInstr a) = true := by
  have h := readCaseAddr_readCaseOf a
  unfold readInstr
  cases hc : readCaseOf a <;> simp_all [readCaseAddr, wellFormed]

/-- The call `write(a, d)` is a well-formed dispatch case (R102). -/
theorem wellFormed_writeInstr (a : Addr) (d : Byte) : wellFormed (writeInstr a d) = true := by
  have h := writeCaseAddr_writeCaseOf a
  unfold writeInstr
  cases hc : writeCaseOf a <;> simp_all [writeCaseAddr, wellFormed]

theorem unusedZero_eq_ok {ok : Bool} {i j : Instr} (h : unusedZero ok i = .ok j) : ok = true ∧ i = j := by
  cases ok <;> simp_all [unusedZero]

theorem withKind_eq_ok {w : RequestWord} {ok : Bool} {f : Kind → Instr} {j : Instr}
    (h : withKind w ok f = .ok j) : ok = true ∧ ∃ k, kindOfCode (kindField w) = some k ∧ f k = j := by
  unfold withKind at h
  split at h
  · next k hk =>
    obtain ⟨hok, hj⟩ := unusedZero_eq_ok h
    exact ⟨hok, k, hk, hj⟩
  · cases h

theorem decodeForce_eq_ok {w : RequestWord} {j : Instr} (h : decodeForce w = .ok j) :
    onlyAddrByte w = true ∧ portOfBit (portField w) = .privileged ∧ j = .forceWrite (addrField w) (dataLow w) := by
  unfold decodeForce at h
  split at h
  · next hz =>
    cases hp : portOfBit (portField w) <;> simp_all
  · cases h

/-- A request word that is accepted is an operation of R92, or carries a reserved code. -/
theorem wellFormed_of_decodeWord {w : RequestWord} {i : Instr} (h : decodeWord w = .ok i) : wellFormed i = true := by
  unfold decodeWord at h
  dsimp only at h
  split_ifs at h
  · exact (unusedZero_eq_ok h).2 ▸ rfl
  · exact (unusedZero_eq_ok h).2 ▸ rfl
  · exact (unusedZero_eq_ok h).2 ▸ rfl
  · exact (unusedZero_eq_ok h).2 ▸ rfl
  · exact (decodeForce_eq_ok h).2.2 ▸ rfl
  · obtain ⟨-, k, -, rfl⟩ := withKind_eq_ok h
    rfl
  · obtain ⟨-, k, -, rfl⟩ := withKind_eq_ok h
    rfl
  · obtain ⟨-, k, -, rfl⟩ := withKind_eq_ok h
    rfl
  · exact (unusedZero_eq_ok h).2 ▸ rfl
  · cases h
    simp only [wellFormed, decide_eq_true_eq]
    omega

theorem wellFormed_of_decode {r : Request} {i : Instr} (h : decode r = .ok i) : wellFormed i = true := by
  cases r with
  | word w => exact wellFormed_of_decodeWord h
  | readAt a =>
    cases h
    exact wellFormed_readInstr a
  | writeAt a d =>
    cases h
    exact wellFormed_writeInstr a d

end Sys2Proof.Machine
end

section
/-! The bus by its dispatch cases, each one function of the case: the cases' address sets do not meet, so `read` and `write`
perform the one case that holds the address, and every well-formed instruction performs one of the nine operations of R92. -/

namespace Sys2Proof.Machine

/-! ## The address sets do not meet -/

/-- The ranges of the "addresses" column of R101. -/
def readCaseRanges : ReadCase → List (Nat × Nat)
  | .cart => [(0x0000, 0x7FFF), (0xA000, 0xBFFF)]
  | .irq => [(0xFF0F, 0xFF0F), (0xFFFF, 0xFFFF)]
  | .vram => [(0x8000, 0x9FFF)]
  | .oam => [(0xFE00, 0xFE9F)]
  | .joyp => [(0xFF00, 0xFF00)]
  | .div => [(0xFF04, 0xFF04)]
  | .plain => [(0xC000, 0xFDFF), (0xFEA0, 0xFEFF), (0xFF01, 0xFF03), (0xFF05, 0xFF0E), (0xFF10, 0xFFFE)]

/-- The ranges of the "addresses" column of R102. -/
def writeCaseRanges : WriteCase → List (Nat × Nat)
  | .cart => [(0x0000, 0x7FFF), (0xA000, 0xBFFF)]
  | .wram => [(0xC000, 0xDFFF)]
  | .echo => [(0xE000, 0xFDFF)]
  | .div => [(0xFF04, 0xFF04)]
  | .lcdc => [(0xFF40, 0xFF40)]
  | .ly => [(0xFF44, 0xFF44)]
  | .stat => [(0xFF41, 0xFF41)]
  | .joyp => [(0xFF00, 0xFF00)]
  | .vram => [(0x8000, 0x9FFF)]
  | .oam => [(0xFE00, 0xFE9F)]
  | .dma => [(0xFF46, 0xFF46)]
  | .plain => [(0xFEA0, 0xFEFF), (0xFF01, 0xFF03), (0xFF05, 0xFF3F), (0xFF42, 0xFF43), (0xFF45, 0xFF45), (0xFF47, 0xFFFF)]

theorem readCaseAddr_iff (c : ReadCase) (a : Addr) :
    readCaseAddr c a = true ↔ ∃ r ∈ readCaseRanges c, r.1 ≤ a.toNat ∧ a.toNat ≤ r.2 := by
  cases c <;>
    simp [readCaseAddr, readCaseRanges, isCartAddr, isIrqAddr, isVramAddr, isOamAddr, isPlainReadAddr, inRange,
      addr_eq_iff, joypAddr, divAddr] <;>
    omega

theorem writeCaseAddr_iff (c : WriteCase) (a : Addr) :
    writeCaseAddr c a = true ↔ ∃ r ∈ writeCaseRanges c, r.1 ≤ a.toNat ∧ a.toNat ≤ r.2 := by
  have hlt := a.isLt
  cases c <;>
    simp [writeCaseAddr, writeCaseRanges, isCartAddr, isWramAddr, isEchoAddr, isVramAddr, isOamAddr, isPlainWriteAddr,
      inRange, addr_eq_iff, divAddr, lcdcAddr, lyAddr, statAddr, joypAddr, dmaAddr] <;>
    omega

/-- Of two lists of ranges, every range of one ends before each of the other begins, or begins after it ends. -/
abbrev RangesApart (l m : List (Nat × Nat)) : Prop := ∀ r ∈ l, ∀ q ∈ m, r.2 < q.1 ∨ q.2 < r.1

theorem not_mem_both_of_rangesApart {l m : List (Nat × Nat)} (h : RangesApart l m) {n : Nat}
    (hl : ∃ r ∈ l, r.1 ≤ n ∧ n ≤ r.2) (hm : ∃ r ∈ m, r.1 ≤ n ∧ n ≤ r.2) : False := by
  obtain ⟨r, hr, hr1, hr2⟩ := hl
  obtain ⟨q, hq, hq1, hq2⟩ := hm
  have := h r hr q hq
  omega

theorem readCaseRanges_apart (c e : ReadCase) : c = e ∨ RangesApart (readCaseRanges c) (readCaseRanges e) := by
  cases c <;> cases e <;> decide

theorem writeCaseRanges_apart (c e : WriteCase) : c = e ∨ RangesApart (writeCaseRanges c) (writeCaseRanges e) := by
  cases c <;> cases e <;> decide

/-- An address belongs to one read case (R101). -/
theorem readCase_unique {c e : ReadCase} {a : Addr} (hc : readCaseAddr c a = true) (he : readCaseAddr e a = true) :
    c = e :=
  (readCaseRanges_apart c e).resolve_right fun h =>
    not_mem_both_of_rangesApart h ((readCaseAddr_iff c a).mp hc) ((readCaseAddr_iff e a).mp he)

/-- An address belongs to one write case (R102). -/
theorem writeCase_unique {c e : WriteCase} {a : Addr} (hc : writeCaseAddr c a = true) (he : writeCaseAddr e a = true) :
    c = e :=
  (writeCaseRanges_apart c e).resolve_right fun h =>
    not_mem_both_of_rangesApart h ((writeCaseAddr_iff c a).mp hc) ((writeCaseAddr_iff e a).mp he)

/-! ## The case performed -/

/-- The read case as a function of its name (R141 to R147). -/
def performRead (a : Addr) (s : State) : ReadCase → Byte × State
  | .cart => readCart a s
  | .irq => readIrq a s
  | .vram => readVram a s
  | .oam => readOam a s
  | .joyp => readJoyp s
  | .div => readDiv s
  | .plain => readPlain a s

/-- The write case as a function of its name (R171 to R182). -/
def performWrite (a : Addr) (d : Byte) (s : State) : WriteCase → State
  | .cart => writeCart a d s
  | .wram => writeWram a d s
  | .echo => writeEcho a d s
  | .div => writeDiv d s
  | .lcdc => writeLcdc d s
  | .ly => writeLy d s
  | .stat => writeStat d s
  | .joyp => writeJoyp d s
  | .vram => writeVram a d s
  | .oam => writeOam a d s
  | .dma => writeDma d s
  | .plain => writePlain a d s

/-- `read` performs the case that holds the address (R101, R140). -/
theorem busRead_of_case {c : ReadCase} {a : Addr} (hc : readCaseAddr c a = true) (s : State) :
    busRead a s = performRead a s c := by
  have of_case : ∀ e, readCaseAddr e a = true → busRead a s = performRead a s e → busRead a s = performRead a s c :=
    fun e he h => readCase_unique he hc ▸ h
  rcases busRead_by_case a s with ⟨h, e⟩ | ⟨h, e⟩ | ⟨h, e⟩ | ⟨h, e⟩ | ⟨h, e⟩ | ⟨h, e⟩ | ⟨h, e⟩
  · exact of_case .cart h e
  · exact of_case .irq h e
  · exact of_case .vram h e
  · exact of_case .oam h e
  · exact of_case .joyp (by simp [readCaseAddr, h]) e
  · exact of_case .div (by simp [readCaseAddr, h]) e
  · exact of_case .plain h e

/-- `write` performs the case that holds the address (R102, R170). -/
theorem busWrite_of_case {c : WriteCase} {a : Addr} (hc : writeCaseAddr c a = true) (d : Byte) (s : State) :
    busWrite a d s = performWrite a d s c := by
  have of_case : ∀ e, writeCaseAddr e a = true → busWrite a d s = performWrite a d s e →
      busWrite a d s = performWrite a d s c :=
    fun e he h => writeCase_unique he hc ▸ h
  rcases busWrite_by_case a d s with ⟨h, e⟩ | ⟨h, e⟩ | ⟨h, e⟩ | ⟨h, e⟩ | ⟨h, e⟩ | ⟨h, e⟩ | ⟨h, e⟩ | ⟨h, e⟩ | ⟨h, e⟩ |
    ⟨h, e⟩ | ⟨h, e⟩ | ⟨h, e⟩
  · exact of_case .cart h e
  · exact of_case .wram h e
  · exact of_case .echo h e
  · exact of_case .div (by simp [writeCaseAddr, h]) e
  · exact of_case .lcdc (by simp [writeCaseAddr, h]) e
  · exact of_case .ly (by simp [writeCaseAddr, h]) e
  · exact of_case .stat (by simp [writeCaseAddr, h]) e
  · exact of_case .joyp (by simp [writeCaseAddr, h]) e
  · exact of_case .vram h e
  · exact of_case .oam h e
  · exact of_case .dma (by simp [writeCaseAddr, h]) e
  · exact of_case .plain h e

/-! ## What an instruction performs -/

/-- The operation of R92 that an instruction performs, in whichever of its spellings, with the addresses that it names. -/
inductive Performs (i : Instr) : Prop where
  | reserved (eq : ∀ s, exec i s = .refused .reservedOp)
  | read (a : Addr) (eq : ∀ s, exec i s = respondByte (busRead a s))
  | read16 (a : Addr) (eq : ∀ s, exec i s = respond (.half (busRead16 a s).1) (busRead16 a s).2)
  | pending (k : Kind) (eq : ∀ s, exec i s = respond (.flag (readPending k s).1) (readPending k s).2)
  | classify (a : Addr) (eq : ∀ s, exec i s = respond (.region (regionCode (classify a))) s)
  | write (a : Addr) (d : Byte) (names : namesTarget a i = true) (dma : startsDma i = (a == dmaAddr))
      (eq : ∀ s, exec i s = respondNone (busWrite a d s))
  | write16 (a : Addr) (w : Half) (names : namesTarget a i = true) (namesNext : namesTarget (nextAddr a) i = true)
      (dma : startsDma i = (a == dmaAddr || nextAddr a == dmaAddr))
      (eq : ∀ s, exec i s = respondNone (busWrite16 a w s))
  | rewrite (reg : Addr) (k : Kind) (v : Bool) (irq : reg = ieAddr ∨ reg = ifAddr) (names : namesTarget reg i = true)
      (eq : ∀ s, exec i s = respondNone (rewriteIrq reg k v s))
  | force (a : Addr) (d : Byte) (eq : i = .forceWrite a d)

/-- A read dispatch case at an address of the case performs `read`. -/
theorem performs_of_readCase {i : Instr} {c : ReadCase} {a : Addr} (hc : readCaseAddr c a = true)
    (eq : ∀ s, exec i s = respondByte (performRead a s c)) : Performs i :=
  .read a fun s => by rw [eq, busRead_of_case hc]

/-- A write dispatch case at an address of the case performs `write`. -/
theorem performs_of_writeCase {i : Instr} {c : WriteCase} {a : Addr} (d : Byte) (hc : writeCaseAddr c a = true)
    (names : namesTarget a i = true) (dma : startsDma i = (a == dmaAddr))
    (eq : ∀ s, exec i s = respondNone (performWrite a d s c)) : Performs i :=
  .write a d names dma fun s => by rw [eq, busWrite_of_case hc]

/-- Every well-formed instruction performs an operation of R92. -/
theorem performs_of_wellFormed {i : Instr} (hw : wellFormed i = true) : Performs i := by
  cases i with
  | read p a => exact .read a fun _ => rfl
  | write p a d => exact .write a d (by simp [namesTarget]) rfl fun _ => rfl
  | read16 p a => exact .read16 a fun _ => rfl
  | write16 p a w => exact .write16 a w (by simp [namesTarget]) (by simp [namesTarget]) rfl fun _ => rfl
  | forceWrite a d => exact .force a d rfl
  | setEnable p k v => exact .rewrite ieAddr k v (.inl rfl) rfl fun _ => rfl
  | setFlag p k v => exact .rewrite ifAddr k v (.inr rfl) rfl fun _ => rfl
  | intPending p k => exact .pending k fun _ => rfl
  | classify p a => exact .classify a fun _ => rfl
  | reserved p op rest => exact .reserved fun _ => rfl
  | readCart a => exact performs_of_readCase (c := .cart) hw fun _ => rfl
  | readIrq a => exact performs_of_readCase (c := .irq) hw fun _ => rfl
  | readVram a => exact performs_of_readCase (c := .vram) hw fun _ => rfl
  | readOam a => exact performs_of_readCase (c := .oam) hw fun _ => rfl
  | readJoyp => exact performs_of_readCase (c := .joyp) (a := joypAddr) rfl fun _ => rfl
  | readDiv => exact performs_of_readCase (c := .div) (a := divAddr) rfl fun _ => rfl
  | readPlain a => exact performs_of_readCase (c := .plain) hw fun _ => rfl
  | writeCart a d => exact performs_of_writeCase (c := .cart) d hw (by simp [namesTarget]) rfl fun _ => rfl
  | writeWram a d => exact performs_of_writeCase (c := .wram) d hw (by simp [namesTarget]) rfl fun _ => rfl
  | writeEcho a d => exact performs_of_writeCase (c := .echo) d hw (by simp [namesTarget]) rfl fun _ => rfl
  | writeDiv d => exact performs_of_writeCase (c := .div) (a := divAddr) d rfl rfl rfl fun _ => rfl
  | writeLcdc d => exact performs_of_writeCase (c := .lcdc) (a := lcdcAddr) d rfl rfl rfl fun _ => rfl
  | writeLy d => exact performs_of_writeCase (c := .ly) (a := lyAddr) d rfl rfl rfl fun _ => rfl
  | writeStat d => exact performs_of_writeCase (c := .stat) (a := statAddr) d rfl rfl rfl fun _ => rfl
  | writeJoyp d => exact performs_of_writeCase (c := .joyp) (a := joypAddr) d rfl rfl rfl fun _ => rfl
  | writeVram a d => exact performs_of_writeCase (c := .vram) d hw (by simp [namesTarget]) rfl fun _ => rfl
  | writeOam a d => exact performs_of_writeCase (c := .oam) d hw (by simp [namesTarget]) rfl fun _ => rfl
  | writeDma d => exact performs_of_writeCase (c := .dma) (a := dmaAddr) d rfl rfl rfl fun _ => rfl
  | writePlain a d => exact performs_of_writeCase (c := .plain) d hw (by simp [namesTarget]) rfl fun _ => rfl

/-! ## What every operation keeps, every step keeps -/

/-- The operations that `i` may perform keep the property: any read, a write to an address that `i` names, the force that
`i` is, and the response. -/
structure KeptBy (P : State → Prop) (i : Instr) : Prop where
  read : ∀ a u, P u → P (busRead a u).2
  write : ∀ a d u, namesTarget a i = true → P u → P (busWrite a d u)
  force : ∀ a d u, i = .forceWrite a d → P u → P (putByte u a d)
  respond : ∀ r u, P u → P { u with responses := u.responses ++ [r] }

/-- An instruction whose operations keep a property keeps it. -/
theorem exec_keeps {P : State → Prop} {i : Instr} {s t : State} (hk : KeptBy P i) (hw : wellFormed i = true)
    (hs : P s) (h : exec i s = .next t) : P t := by
  have ends : ∀ {r u}, P u → exec i s = respond r u → P t := fun {r u} hu he => by
    rw [he, respond_eq, Host.Outcome.next.injEq] at h
    exact h ▸ hk.respond r u hu
  cases performs_of_wellFormed hw with
  | reserved eq => rw [eq] at h; cases h
  | read a eq => exact ends (hk.read a s hs) (eq s)
  | read16 a eq => exact ends (hk.read _ _ (hk.read a s hs)) (eq s)
  | pending k eq => exact ends (hk.read _ _ (hk.read _ s hs)) (eq s)
  | classify a eq => exact ends hs (eq s)
  | write a d names dma eq => exact ends (hk.write a d s names hs) (eq s)
  | write16 a w names namesNext dma eq => exact ends (hk.write _ _ _ namesNext (hk.write a _ s names hs)) (eq s)
  | rewrite reg k v irq names eq => exact ends (hk.write _ _ _ names (hk.read reg s hs)) (eq s)
  | force a d eq => exact ends (hk.force a d s eq hs) (by rw [eq]; rfl)

/-- A step keeps what the operations of its instruction keep, and what taking the request off keeps. -/
theorem step_keeps {P : State → Prop} {s t : State} (hk : ∀ i, nextInstr s = some i → KeptBy P i)
    (htake : ∀ rest, P s → P { s with requests := rest }) (hs : P s) (h : step s = .next t) : P t := by
  rcases step_next_cases h with ⟨-, rfl⟩ | ⟨r, rest, i, -, hd, hn, he⟩
  · exact hs
  · exact exec_keeps (hk i hn) (wellFormed_of_decode hd) (htake rest hs) he

/-- A property of the store alone is kept by reads and responses. -/
theorem keptBy_of_store {P : State → Prop} {i : Instr} (hcongr : ∀ {u v : State}, v.store = u.store → P u → P v)
    (hwrite : ∀ a d u, namesTarget a i = true → P u → P (busWrite a d u))
    (hforce : ∀ a d u, i = .forceWrite a d → P u → P (putByte u a d)) : KeptBy P i where
  read a u := hcongr (busRead_store a u)
  write := hwrite
  force := hforce
  respond _ _ := hcongr rfl

/-- A step keeps a property of the store alone that the writes of its instruction keep. -/
theorem step_keeps_of_store {P : State → Prop} {s t : State}
    (hcongr : ∀ {u v : State}, v.store = u.store → P u → P v)
    (hwrite : ∀ i a d u, nextInstr s = some i → namesTarget a i = true → P u → P (busWrite a d u))
    (hforce : ∀ a d u, nextInstr s = some (.forceWrite a d) → P u → P (putByte u a d))
    (hs : P s) (h : step s = .next t) : P t :=
  step_keeps (fun i hn => keptBy_of_store hcongr (fun a d u => hwrite i a d u hn) fun a d u e => hforce a d u (e ▸ hn))
    (fun _ => hcongr rfl) hs h

end Sys2Proof.Machine
end

section
/-! The bytes that a write stores, and the frame of `write`: every other byte reads as before (R68). -/

namespace Sys2Proof.Machine

/-! ## The echo pairs -/

theorem isMirroredWork_iff {a : Addr} : isMirroredWork a = true ↔ 0xC000 ≤ a.toNat ∧ a.toNat ≤ 0xDDFF := inRange_iff

theorem isEchoAddr_iff {a : Addr} : isEchoAddr a = true ↔ 0xE000 ≤ a.toNat ∧ a.toNat ≤ 0xFDFF := inRange_iff

/-- The echo of a mirrored work-RAM address lies 0x2000 above it (R62). -/
theorem echoOf_toNat {a : Addr} (h : isMirroredWork a = true) : (echoOf a).toNat = a.toNat + 0x2000 := by
  have := isMirroredWork_iff.mp h
  simp only [echoOf, echoOffset]
  bv_omega

/-- The work-RAM address of an echo address lies 0x2000 below it (R62). -/
theorem workOf_toNat {a : Addr} (h : isEchoAddr a = true) : (workOf a).toNat + 0x2000 = a.toNat := by
  have := isEchoAddr_iff.mp h
  simp only [workOf, echoOffset]
  bv_omega

theorem isEchoAddr_echoOf {a : Addr} (h : isMirroredWork a = true) : isEchoAddr (echoOf a) = true := by
  have hm := isMirroredWork_iff.mp h
  rw [isEchoAddr_iff, echoOf_toNat h]
  omega

theorem isMirroredWork_workOf {a : Addr} (h : isEchoAddr a = true) : isMirroredWork (workOf a) = true := by
  have he := isEchoAddr_iff.mp h
  have hw := workOf_toNat h
  rw [isMirroredWork_iff]
  omega

@[simp] theorem workOf_echoOf (a : Addr) : workOf (echoOf a) = a := by
  simp [workOf, echoOf]

@[simp] theorem echoOf_workOf (a : Addr) : echoOf (workOf a) = a := by
  simp [workOf, echoOf]

theorem mirrorOf_of_work {a : Addr} (h : isMirroredWork a = true) : mirrorOf a = echoOf a := if_pos h

theorem mirrorOf_of_echo {a : Addr} (h : isEchoAddr a = true) : mirrorOf a = workOf a := by
  have he := isEchoAddr_iff.mp h
  refine if_neg fun hw => ?_
  have := isMirroredWork_iff.mp hw
  omega

/-! ## The frame of a write -/

/-- A write at `b` may store the byte at `x`: at its own address, unless the write is forwarded or discarded there; at the other
address of a mirrored pair; or, in the LCD-off reset, at LY and STAT (R171 to R182). -/
def storesAt (b x : Addr) : Prop :=
  (x = b ∧ nonAuthoritative b = false ∧ b ≠ divAddr ∧ b ≠ lyAddr) ∨
    ((isMirroredWork b = true ∨ isEchoAddr b = true) ∧ x = mirrorOf b) ∨
    (b = lcdcAddr ∧ (x = lyAddr ∨ x = statAddr))

/-- The addresses of a write case that stores its own byte. -/
theorem storesAt_self {c : WriteCase} {b : Addr} (hc : writeCaseAddr c b = true)
    (h : c ∉ [WriteCase.cart, .vram, .oam, .div, .ly]) : storesAt b b := by
  have other : ∀ e ∈ [WriteCase.cart, .vram, .oam, .div, .ly], writeCaseAddr e b ≠ true := fun e he hb =>
    h (writeCase_unique hc hb ▸ he)
  simp [writeCaseAddr] at other
  obtain ⟨hcart, hvram, hoam, hdiv, hly⟩ := other
  refine .inl ⟨rfl, ?_, hdiv, hly⟩
  rw [← Bool.not_eq_true, nonAuthoritative_iff]
  simp [hcart, hvram, hoam]

/-- The LCD-off reset stores LY and STAT only (R175). -/
theorem byteAt_lcdOffReset {x : Addr} (s : State) (hly : x ≠ lyAddr) (hstat : x ≠ statAddr) :
    byteAt (lcdOffReset s) x = byteAt s x := by
  rw [lcdOffReset, byteAt_putByte_other _ _ hstat, byteAt_putByte_other _ _ hly]

/-- The copy of a DMA is port calls only: the one byte stored is the register's (R181). -/
theorem byteAt_writeDma (d : Byte) (s : State) (x : Addr) : byteAt (writeDma d s) x = byteAt (putByte s dmaAddr d) x := by
  rw [writeDma_eq]
  rfl

/-- The frame of a write: a byte that it does not store reads as before. -/
theorem byteAt_busWrite_of_not_storesAt {b x : Addr} (h : ¬ storesAt b x) (d : Byte) (s : State) :
    byteAt (busWrite b d s) x = byteAt s x := by
  have hc := writeCaseAddr_writeCaseOf b
  rw [busWrite_of_case hc]
  have hself : writeCaseOf b ∉ [WriteCase.cart, .vram, .oam, .div, .ly] → x ≠ b := by
    rintro hn rfl
    exact h (storesAt_self hc hn)
  have hmirror : isMirroredWork b = true ∨ isEchoAddr b = true → x ≠ mirrorOf b := fun hb hx => h (.inr (.inl ⟨hb, hx⟩))
  cases hcase : writeCaseOf b <;> rw [hcase] at hc hself <;> simp only [writeCaseAddr, beq_iff_eq] at hc
  case cart | vram | oam | div => exact byteAt_callWrite _ _ _
  case ly => rfl
  case plain => exact byteAt_putByte_other _ _ (hself (by decide))
  case joyp | stat =>
    subst hc
    exact byteAt_putByte_other _ _ (hself (by decide))
  case dma =>
    subst hc
    exact (byteAt_writeDma _ _ _).trans (byteAt_putByte_other _ _ (hself (by decide)))
  case wram =>
    have hx := hself (by decide)
    simp only [performWrite, writeWram]
    split
    · next hle =>
      have hw : isMirroredWork b = true := isMirroredWork_iff.mpr ⟨(inRange_iff.mp hc).1, hle⟩
      have hxe : x ≠ echoOf b := mirrorOf_of_work hw ▸ hmirror (.inl hw)
      rw [byteAt_putByte_other _ _ hxe, byteAt_putByte_other _ _ hx]
    · exact byteAt_putByte_other _ _ hx
  case echo =>
    have hxw : x ≠ workOf b := mirrorOf_of_echo hc ▸ hmirror (.inr hc)
    simp only [performWrite, writeEcho]
    rw [byteAt_putByte_other _ _ hxw, byteAt_putByte_other _ _ (hself (by decide))]
  case lcdc =>
    subst hc
    have hx := hself (by decide)
    have hreset : x ≠ lyAddr ∧ x ≠ statAddr :=
      ⟨fun e => h (.inr (.inr ⟨rfl, .inl e⟩)), fun e => h (.inr (.inr ⟨rfl, .inr e⟩))⟩
    simp only [performWrite, writeLcdc]
    split
    · exact byteAt_putByte_other _ _ hx
    · rw [byteAt_lcdOffReset _ hreset.1 hreset.2, byteAt_putByte_other _ _ hx]

/-- The mirror lies in work and echo RAM (R62). -/
theorem mirrorOf_bounds {b : Addr} (h : isMirroredWork b = true ∨ isEchoAddr b = true) :
    0xC000 ≤ (mirrorOf b).toNat ∧ (mirrorOf b).toNat ≤ 0xFDFF := by
  rcases h with h | h
  · have := isEchoAddr_iff.mp (isEchoAddr_echoOf h)
    rw [mirrorOf_of_work h]
    omega
  · have := isMirroredWork_iff.mp (isMirroredWork_workOf h)
    rw [mirrorOf_of_echo h]
    omega

/-- A write never stores a byte that the block is not authoritative for (R38). -/
theorem not_storesAt_of_nonAuthoritative {x : Addr} (hx : nonAuthoritative x = true) (b : Addr) : ¬ storesAt b x := by
  rintro (⟨rfl, hb, -⟩ | ⟨hb, rfl⟩ | ⟨-, rfl | rfl⟩)
  · simp [hx] at hb
  · have hm := mirrorOf_bounds hb
    simp [nonAuthoritative_iff, isCartAddr, isVramAddr, isOamAddr, inRange] at hx
    omega
  · exact absurd hx (by decide)
  · exact absurd hx (by decide)

/-- Outside work RAM, echo RAM, LY and STAT a write stores its own address at most. -/
theorem eq_of_storesAt {b x : Addr} (h : storesAt b x) (hx : 0xFDFF < x.toNat)
    (hl : b = lcdcAddr → x ≠ lyAddr ∧ x ≠ statAddr) : x = b ∧ b ≠ lyAddr := by
  rcases h with ⟨rfl, -, -, hy⟩ | ⟨hb, rfl⟩ | ⟨rfl, hr⟩
  · exact ⟨rfl, hy⟩
  · have := mirrorOf_bounds hb
    omega
  · exact absurd hr (not_or.mpr (hl rfl))

end Sys2Proof.Machine
end

section
/-! The statements about one step and the whole machine: what every step keeps. -/

namespace Sys2Proof.Machine

/-- Settles O12. The three outcomes of taking the next request. -/
theorem stepRunsTheDecodedRequest : Obligations.StepRunsTheDecodedRequest := by
  unfold Obligations.StepRunsTheDecodedRequest
  refine fun s => ⟨fun r rest i hr hd => ?_, fun r rest e hr hd => ?_, fun hr => ?_⟩
  · rw [step_of_request hr, hd]
  · rw [step_of_request hr, hd]
  · simp [step, takeRequest, hr]

/-- Settles O15. Every operation keeps the canonical form, so every step does. -/
theorem storeStaysCanonical : Obligations.StoreStaysCanonical := by
  unfold Obligations.StoreStaysCanonical
  intro s t hs h
  refine step_keeps_of_store (P := StoreCanonical) (fun e => (storeCanonical_congr e).mpr) ?_ ?_ hs h
  · intro i a d u _ _ hu
    obtain ⟨-, -, -, -, -, hkeep⟩ := busWrite_shape a d u
    exact hkeep hu
  · exact fun a d u _ hu => putByte_canonical hu a d

/-- A canonical store lists no cell past the address space. -/
theorem memory_read_outside {m : Memory} (hm : Memory.wf m) {n : Nat} (hn : 65536 ≤ n) :
    Memory.read m n = resetByte n := by
  have hfind : m.find? (fun c => c.1 == n) = none := by
    rw [List.find?_eq_none]
    intro c hc
    have := (hm.2 c hc).1
    simp only [beq_iff_eq]
    omega
  rw [Memory.read, hfind]

/-- Two canonical stores that read alike in the address space are the same list. -/
theorem store_eq_of_byteAt {s t : State} (hs : StoreCanonical s) (ht : StoreCanonical t)
    (h : ∀ a, byteAt s a = byteAt t a) : s.store = t.store := by
  refine memory_ext hs ht fun n => ?_
  by_cases hn : n < 65536
  · simpa [byteAt, Nat.mod_eq_of_lt hn] using h (BitVec.ofNat 16 n)
  · rw [memory_read_outside hs (by omega), memory_read_outside ht (by omega)]

/-- Settles O16. The empty list is canonical, and a canonical list is fixed by what it reads. -/
theorem constructionStoreCanonical : Obligations.ConstructionStoreCanonical := by
  unfold Obligations.ConstructionStoreCanonical
  exact ⟨memory_wf_nil, fun s hs h => store_eq_of_byteAt hs memory_wf_nil h⟩

/-- Nothing of the trace and the responses of `s` is lost in `t`. -/
def Extends (s t : State) : Prop := s.trace <+: t.trace ∧ s.responses <+: t.responses

/-- Every operation extends the two records. -/
theorem keptBy_extends (s : State) (i : Instr) : KeptBy (Extends s) i where
  read a u hu := ⟨hu.1.trans (busRead_trace a u), by simpa using hu.2⟩
  write a d u _ hu := by
    obtain ⟨-, -, -, hresp, htrace, -⟩ := busWrite_shape a d u
    exact ⟨hu.1.trans htrace, hresp ▸ hu.2⟩
  force _ _ _ _ hu := hu
  respond _ _ hu := ⟨hu.1, hu.2.trans (List.prefix_append _ _)⟩

/-- Settles O18. Every operation only appends to the two records. -/
theorem traceAndResponsesOnlyGrow : Obligations.TraceAndResponsesOnlyGrow := by
  unfold Obligations.TraceAndResponsesOnlyGrow
  intro s t h
  exact step_keeps (P := Extends s) (fun i _ => keptBy_extends s i) (fun _ hs => hs)
    ⟨List.prefix_refl _, List.prefix_refl _⟩ h

/-! ## Bytes that only some instructions change -/

/-- A byte that no write named by the next instruction stores, and that is not forced, reads as before the step. -/
theorem byteAt_step_of_not_storesAt {s t : State} {i : Instr} {x : Addr} (hn : nextInstr s = some i)
    (hwrite : ∀ b, namesTarget b i = true → ¬ storesAt b x) (hforce : ¬ forcesAt x i) (h : step s = .next t) :
    byteAt t x = byteAt s x := by
  refine step_keeps_of_store (P := fun u => byteAt u x = byteAt s x) (fun e hu => (byteAt_congr e x).trans hu) ?_ ?_ rfl h
  · intro j b d u hj hb hu
    obtain rfl : i = j := Option.some.inj (hn.symm.trans hj)
    rw [byteAt_busWrite_of_not_storesAt (hwrite b hb), hu]
  · intro b d u hj hu
    obtain rfl : i = .forceWrite b d := Option.some.inj (hn.symm.trans hj)
    have hx : x ≠ b := by
      rintro rfl
      exact hforce ⟨d, rfl⟩
    rw [byteAt_putByte_other _ _ hx, hu]

/-- Settles O19. No write stores a non-authoritative byte. -/
theorem nonAuthoritativeBytesOnlyForced : Obligations.NonAuthoritativeBytesOnlyForced := by
  unfold Obligations.NonAuthoritativeBytesOnlyForced
  intro s t i a ha hn hf h
  exact byteAt_step_of_not_storesAt hn (fun b _ => not_storesAt_of_nonAuthoritative ha b) hf h

/-- An instruction that does not name an address does not force it. -/
theorem not_forcesAt_of_not_named {a : Addr} {i : Instr} (h : namesTarget a i = false) : ¬ forcesAt a i := by
  rintro ⟨d, rfl⟩
  simp [namesTarget] at h

/-- Settles O21. IF and IE are no side effect of any write: they have no mirror, and the LCD-off reset spares them. -/
theorem interruptBytesChangeOnlyWhenNamed : Obligations.InterruptBytesChangeOnlyWhenNamed := by
  unfold Obligations.InterruptBytesChangeOnlyWhenNamed
  intro s t i a ha hn hname h
  refine byteAt_step_of_not_storesAt hn (fun b hb hst => ?_) (not_forcesAt_of_not_named hname) h
  have hab : a = b := by
    rcases ha with rfl | rfl
    · exact (eq_of_storesAt hst (by decide) fun _ => by decide).1
    · exact (eq_of_storesAt hst (by decide) fun _ => by decide).1
  rw [hab, hb] at hname
  cases hname

/-- Bits 2:0 of STAT, which a write of STAT keeps (R177). -/
def statLow (s : State) : Byte := byteAt s statAddr &&& 0b00000111#8

/-- A partial write of STAT keeps its low three bits (R177). -/
theorem statLow_mergeBits (d old : Byte) : mergeBits statWritable d old &&& 0b00000111#8 = old &&& 0b00000111#8 := by
  ext j hj
  interval_cases j <;> simp [mergeBits, statWritable]

/-- A write elsewhere than at LCDC keeps the low bits of STAT. -/
theorem statLow_busWrite {b : Addr} (hb : b ≠ lcdcAddr) (d : Byte) (u : State) : statLow (busWrite b d u) = statLow u := by
  by_cases hs : b = statAddr
  · subst hs
    rw [busWrite_of_case (c := .stat) rfl]
    simp [performWrite, writeStat, statLow, statLow_mergeBits]
  · have hst : ¬ storesAt b statAddr := fun h => hs (eq_of_storesAt h (by decide) fun e => absurd e hb).1.symm
    rw [statLow, byteAt_busWrite_of_not_storesAt hst, statLow]

/-- Settles O22. A write elsewhere than at LCDC stores neither LY nor the low bits of STAT, and a force
stores its own byte only. -/
theorem videoStatusMutators : Obligations.VideoStatusMutators := by
  unfold Obligations.VideoStatusMutators
  intro s t i hn hlcdc h
  have hne : ∀ b, namesTarget b i = true → b ≠ lcdcAddr := by
    rintro b hb rfl
    exact Bool.false_ne_true (hlcdc.symm.trans hb)
  constructor
  · intro hf
    refine byteAt_step_of_not_storesAt hn (fun b hb hst => ?_) hf h
    obtain ⟨rfl, hly⟩ := eq_of_storesAt hst (by decide) fun e => absurd e (hne b hb)
    exact hly rfl
  · intro hf
    refine step_keeps_of_store (P := fun u => statLow u = statLow s)
      (fun e hu => by rw [statLow, byteAt_congr e]; exact hu) ?_ ?_ rfl h
    · intro j b d u hj hb hu
      obtain rfl : i = j := Option.some.inj (hn.symm.trans hj)
      rw [statLow_busWrite (hne b hb), hu]
    · intro b d u hj hu
      obtain rfl : i = .forceWrite b d := Option.some.inj (hn.symm.trans hj)
      have hx : statAddr ≠ b := by
        rintro rfl
        exact hf ⟨d, rfl⟩
      rw [statLow, byteAt_putByte_other _ _ hx]
      exact hu

end Sys2Proof.Machine
end

section
/-! The echo mirror (R42): which operations keep it, what breaks it, and what repairs it. -/

namespace Sys2Proof.Machine

/-! ## Stores on a pair, and outside the pairs -/

/-- A byte stored on both sides of a pair keeps the mirror. -/
theorem echoHolds_of_pair {s t : State} {w : Addr} {d : Byte} (hs : EchoHolds s) (hw : isMirroredWork w = true)
    (ht : ∀ x, byteAt t x = if x = w ∨ x = echoOf w then d else byteAt s x) : EchoHolds t := by
  intro x hx
  have hwork := isMirroredWork_iff.mp hw
  have hxwork := isMirroredWork_iff.mp hx
  have hew := echoOf_toNat hw
  have hex := echoOf_toNat hx
  have h1 : echoOf x ≠ w := by rw [Ne, addr_eq_iff]; omega
  have h2 : x ≠ echoOf w := by rw [Ne, addr_eq_iff]; omega
  have h3 : echoOf x = echoOf w ↔ x = w := by rw [addr_eq_iff, addr_eq_iff]; omega
  simp only [ht, h1, h2, h3, false_or, or_false, hs x hx]

/-- A store outside the pairs keeps the mirror. -/
theorem echoHolds_putByte_outside {s : State} {a : Addr} (hs : EchoHolds s) (hw : isMirroredWork a ≠ true)
    (he : isEchoAddr a ≠ true) (d : Byte) : EchoHolds (putByte s a d) := by
  intro x hx
  have h1 : x ≠ a := by
    rintro rfl
    exact hw hx
  have h2 : echoOf x ≠ a := by
    rintro rfl
    exact he (isEchoAddr_echoOf hx)
  rw [byteAt_putByte_other _ _ h1, byteAt_putByte_other _ _ h2, hs x hx]

/-- The mirror depends on the store alone. -/
theorem echoHolds_congr {s t : State} (h : t.store = s.store) (hs : EchoHolds s) : EchoHolds t := fun a ha => by
  rw [byteAt_congr h, byteAt_congr h, hs a ha]

/-! ## Writes -/

theorem isWramAddr_of_mirrored {a : Addr} (h : isMirroredWork a = true) : isWramAddr a = true := by
  have := isMirroredWork_iff.mp h
  rw [isWramAddr, inRange_iff]
  omega

/-- A write to mirrored work RAM stores both bytes of the pair (R172). -/
theorem byteAt_busWrite_work {w : Addr} (hw : isMirroredWork w = true) (d : Byte) (s : State) (x : Addr) :
    byteAt (busWrite w d s) x = if x = w ∨ x = echoOf w then d else byteAt s x := by
  have hle : w.toNat ≤ echoSrcHi.toNat := (isMirroredWork_iff.mp hw).2
  rw [busWrite_of_case (c := .wram) (isWramAddr_of_mirrored hw)]
  simp only [performWrite, writeWram, if_pos hle, byteAt_putByte]
  grind

/-- A write to echo RAM stores both bytes of the pair (R173). -/
theorem byteAt_busWrite_echo {a : Addr} (ha : isEchoAddr a = true) (d : Byte) (s : State) (x : Addr) :
    byteAt (busWrite a d s) x = if x = workOf a ∨ x = echoOf (workOf a) then d else byteAt s x := by
  rw [busWrite_of_case (c := .echo) ha, echoOf_workOf]
  simp only [performWrite, writeEcho, byteAt_putByte]
  grind

/-- A write outside the pairs stores no byte of them. -/
theorem not_storesAt_mirror {b x : Addr} (hw : isMirroredWork b ≠ true) (he : isEchoAddr b ≠ true)
    (hx : isMirroredWork x = true ∨ isEchoAddr x = true) : ¬ storesAt b x := by
  rintro (⟨rfl, -⟩ | ⟨hb, -⟩ | ⟨-, rfl | rfl⟩)
  · exact hx.elim hw he
  · exact hb.elim hw he
  · exact absurd hx (by decide)
  · exact absurd hx (by decide)

/-- Every write keeps the mirror (R42). -/
theorem echoHolds_busWrite {s : State} (hs : EchoHolds s) (b : Addr) (d : Byte) : EchoHolds (busWrite b d s) := by
  by_cases hw : isMirroredWork b = true
  · exact echoHolds_of_pair hs hw (byteAt_busWrite_work hw d s)
  by_cases he : isEchoAddr b = true
  · exact echoHolds_of_pair hs (isMirroredWork_workOf he) (byteAt_busWrite_echo he d s)
  intro x hx
  rw [byteAt_busWrite_of_not_storesAt (not_storesAt_mirror hw he (.inl hx)),
    byteAt_busWrite_of_not_storesAt (not_storesAt_mirror hw he (.inr (isEchoAddr_echoOf hx))), hs x hx]

/-! ## The clauses of R42 -/

/-- Every byte of the mirror is 0x00 at construction (R270). -/
theorem echoHolds_reset : EchoHolds State.reset := by
  intro a ha
  have hm := isMirroredWork_iff.mp ha
  have he := echoOf_toNat ha
  rw [byteAt_reset, byteAt_reset, resetByte_below (by omega), resetByte_below (by omega)]

/-- A step that forces no byte of the mirror keeps it. -/
theorem echoHolds_step {s t : State} (hs : EchoHolds s) (hf : ∀ i, nextInstr s = some i → ¬ forcesMirror i)
    (h : step s = .next t) : EchoHolds t := by
  refine step_keeps_of_store (P := EchoHolds) echoHolds_congr (fun _ b d u _ _ hu => echoHolds_busWrite hu b d) ?_ hs h
  intro b d u hn hu
  have hb : ¬ (isMirroredWork b = true ∨ isEchoAddr b = true) := fun hb => hf _ hn ⟨b, d, rfl, hb⟩
  exact echoHolds_putByte_outside hu (fun hw => hb (.inl hw)) (fun he => hb (.inr he)) d

/-- A force stores its one byte and does nothing else (R186). -/
theorem completes_forceWrite (s : State) (a : Addr) (d : Byte) : Completes (.forceWrite a d) s [(a, d)] [] .none := by
  refine ⟨_, rfl, ?_, ?_, ?_, rfl, rfl, rfl, rfl⟩
  · intro c hc
    obtain rfl := List.mem_singleton.mp hc
    exact byteAt_putByte_self s a d
  · intro x hx
    exact byteAt_putByte_other s d (hx (a, d) (by simp))
  · exact (List.append_nil _).symm

/-- `WRITE` completes with the bytes that `write` leaves. -/
theorem exec_write_next (p : Port) (a : Addr) (d : Byte) (s : State) :
    ∃ t, exec (.write p a d) s = .next t ∧ ∀ x, byteAt t x = byteAt (busWrite a d s) x :=
  ⟨_, rfl, fun _ => rfl⟩

/-- A pair with a new byte on one side and its old byte on the other breaks the mirror. -/
theorem not_echoHolds_putByte {s : State} {a : Addr} {d : Byte} (hs : EchoHolds s)
    (ha : isMirroredWork a = true ∨ isEchoAddr a = true) (hd : d ≠ byteAt s a) : ¬ EchoHolds (putByte s a d) := by
  intro ht
  rcases ha with hw | he
  · have hne : echoOf a ≠ a := by
      have := echoOf_toNat hw
      rw [Ne, addr_eq_iff]
      omega
    have hpair := ht a hw
    rw [byteAt_putByte_self, byteAt_putByte_other _ _ hne, hs a hw] at hpair
    exact hd hpair.symm
  · have hw := isMirroredWork_workOf he
    have hne : workOf a ≠ a := by
      have := workOf_toNat he
      rw [Ne, addr_eq_iff]
      omega
    have hpair := ht _ hw
    have hold := hs _ hw
    rw [echoOf_workOf] at hpair hold
    rw [byteAt_putByte_self, byteAt_putByte_other _ _ hne, ← hold] at hpair
    exact hd hpair

/-- Settles O17. The five clauses of R42. -/
theorem echoMirrorHoldsUntilForced : Obligations.EchoMirrorHoldsUntilForced := by
  unfold Obligations.EchoMirrorHoldsUntilForced
  refine ⟨echoHolds_reset, fun s t => echoHolds_step, fun s a d _ => completes_forceWrite s a d, ?_, ?_⟩
  · intro s t a d hs ha hd h
    cases h
    exact fun ht => not_echoHolds_putByte hs ha hd ht
  · intro p s a d ha i hi
    simp only [List.mem_cons, List.not_mem_nil, or_false] at hi
    rcases hi with rfl | rfl
    · obtain ⟨t, ht, hbytes⟩ := exec_write_next p a d s
      exact ⟨t, ht, by simp [hbytes, byteAt_busWrite_work ha], by simp [hbytes, byteAt_busWrite_work ha]⟩
    · obtain ⟨t, ht, hbytes⟩ := exec_write_next p (echoOf a) d s
      have hpair := byteAt_busWrite_echo (isEchoAddr_echoOf ha) d s
      exact ⟨t, ht, by simp [hbytes, hpair], by simp [hbytes, hpair]⟩

end Sys2Proof.Machine
end

section
/-! Noninterference (R38): two states that differ in one non-authoritative byte stay alike but for that byte, through every
operation that copies no DMA. -/

namespace Sys2Proof.Machine

/-- The two states differ in the byte at `a` at most. -/
structure AlikeBut (a : Addr) (t u : State) : Prop where
  trace : u.trace = t.trace
  responses : u.responses = t.responses
  inputs : sameInputs t u
  bytes : ∀ x, x ≠ a → byteAt u x = byteAt t x

section Operations

variable {a : Addr} {t u : State}

theorem alikeBut_putByte_at (s : State) (a : Addr) (v : Byte) : AlikeBut a s (putByte s a v) where
  trace := rfl
  responses := rfl
  inputs := ⟨rfl, rfl, rfl⟩
  bytes _ hx := byteAt_putByte_other s v hx

theorem AlikeBut.putByte (h : AlikeBut a t u) (b : Addr) (d : Byte) : AlikeBut a (putByte t b d) (putByte u b d) where
  trace := h.trace
  responses := h.responses
  inputs := h.inputs
  bytes x hx := by rw [byteAt_putByte, byteAt_putByte, h.bytes x hx]

theorem AlikeBut.callWrite (h : AlikeBut a t u) (e : PortEvent) : AlikeBut a (callWrite e t) (callWrite e u) where
  trace := by simp [h.trace]
  responses := h.responses
  inputs := h.inputs
  bytes := h.bytes

theorem AlikeBut.drawAnswer (h : AlikeBut a t u) :
    (drawAnswer u).1 = (drawAnswer t).1 ∧ AlikeBut a (drawAnswer t).2 (drawAnswer u).2 := by
  obtain ⟨hreq, hans, hdrawn⟩ := h.inputs
  unfold Machine.drawAnswer
  rw [hans, hdrawn]
  cases t.answers with
  | nil => exact ⟨rfl, h.trace, h.responses, ⟨hreq, rfl, rfl⟩, h.bytes⟩
  | cons b rest => exact ⟨rfl, h.trace, h.responses, ⟨hreq, rfl, rfl⟩, h.bytes⟩

theorem AlikeBut.callRead (h : AlikeBut a t u) (event : Byte → PortEvent) :
    (callRead event u).1 = (callRead event t).1 ∧ AlikeBut a (callRead event t).2 (callRead event u).2 := by
  obtain ⟨hb, hs⟩ := h.drawAnswer
  unfold Machine.callRead
  rw [hb]
  exact ⟨rfl, hs.callWrite _⟩

end Operations

/-! ## The bus -/

/-- A read case that forwards to no unit with bytes of its own holds authoritative addresses only (R21). -/
theorem nonAuthoritative_of_readCase {b : Addr} {c : ReadCase} (hb : readCaseAddr c b = true)
    (hc : c ∉ [ReadCase.cart, .vram, .oam]) : nonAuthoritative b = false := by
  rw [← Bool.not_eq_true, nonAuthoritative_iff]
  rintro (h | h | h)
  · exact hc (by simp [readCase_unique hb (e := .cart) h])
  · exact hc (by simp [readCase_unique hb (e := .vram) h])
  · exact hc (by simp [readCase_unique hb (e := .oam) h])

section Bus

variable {a : Addr} {t u : State} (ha : nonAuthoritative a = true) (h : AlikeBut a t u)

include ha h

theorem AlikeBut.authoritative {r : Addr} (hr : nonAuthoritative r = false) : byteAt u r = byteAt t r := by
  refine h.bytes r ?_
  rintro rfl
  exact Bool.false_ne_true (hr.symm.trans ha)

/-- A read shows nothing of a non-authoritative byte. -/
theorem AlikeBut.busRead (b : Addr) :
    (busRead b u).1 = (busRead b t).1 ∧ AlikeBut a (busRead b t).2 (busRead b u).2 := by
  have hc := readCaseAddr_readCaseOf b
  rw [busRead_of_case hc, busRead_of_case hc]
  cases hcase : readCaseOf b <;> rw [hcase] at hc
  case cart | vram | oam | div => exact h.callRead _
  case irq => exact ⟨congrArg irqView (h.authoritative ha (nonAuthoritative_of_readCase hc (by decide))), h⟩
  case plain => exact ⟨h.authoritative ha (nonAuthoritative_of_readCase hc (by decide)), h⟩
  case joyp =>
    simp only [performRead, readJoyp, h.authoritative ha (r := joypAddr) (by decide)]
    exact h.callRead _

theorem AlikeBut.lcdOffReset : AlikeBut a (lcdOffReset t) (lcdOffReset u) := by
  have hly := h.putByte lyAddr 0x00#8
  simp only [Machine.lcdOffReset, hly.authoritative ha (r := statAddr) (by decide)]
  exact hly.putByte _ _

/-- A write that starts no DMA shows nothing of a non-authoritative byte. -/
theorem AlikeBut.busWrite {b : Addr} (hb : b ≠ dmaAddr) (d : Byte) : AlikeBut a (busWrite b d t) (busWrite b d u) := by
  have hc := writeCaseAddr_writeCaseOf b
  rw [busWrite_of_case hc, busWrite_of_case hc]
  cases hcase : writeCaseOf b <;> rw [hcase] at hc
  case cart | vram | oam | div => exact h.callWrite _
  case ly => exact h
  case plain => exact h.putByte _ _
  case echo => exact (h.putByte _ _).putByte _ _
  case wram =>
    simp only [performWrite, writeWram]
    split
    · exact (h.putByte _ _).putByte _ _
    · exact h.putByte _ _
  case stat =>
    simp only [performWrite, writeStat, h.authoritative ha (r := statAddr) (by decide)]
    exact h.putByte _ _
  case joyp =>
    simp only [performWrite, writeJoyp, h.authoritative ha (r := joypAddr) (by decide)]
    exact h.putByte _ _
  case lcdc =>
    simp only [performWrite, writeLcdc, h.authoritative ha (r := lcdcAddr) (by decide)]
    split
    · exact h.putByte _ _
    · exact (h.putByte _ _).lcdOffReset ha
  case dma => exact absurd (by simpa [writeCaseAddr] using hc) hb

/-- The read-modify-write of an interrupt register shows nothing of a non-authoritative byte. -/
theorem AlikeBut.rewriteIrq {reg : Addr} (hreg : reg ≠ dmaAddr) (k : Kind) (v : Bool) :
    AlikeBut a (rewriteIrq reg k v t) (rewriteIrq reg k v u) := by
  obtain ⟨hbyte, hstate⟩ := h.busRead ha reg
  simp only [Machine.rewriteIrq, hbyte]
  exact hstate.busWrite ha hreg _

end Bus

/-! ## One instruction -/

/-- The same response given in two states that are alike but for a byte ends in two such states. -/
theorem AlikeBut.respond {a : Addr} {t u t' : State} (h : AlikeBut a t u) {r q : Response} (hr : q = r)
    (ht : respond r t = .next t') : ∃ u', respond q u = .next u' ∧ AlikeBut a t' u' := by
  subst hr
  cases ht
  exact ⟨_, rfl, h.trace, by simp [h.responses], h.inputs, h.bytes⟩

/-- An instruction that starts no DMA does the same in two states that are alike but for a non-authoritative byte. -/
theorem exec_alikeBut {a : Addr} {s s' t : State} {i : Instr} (ha : nonAuthoritative a = true) (hs : AlikeBut a s s')
    (hw : wellFormed i = true) (hdma : startsDma i = false) (h : exec i s = .next t) :
    ∃ u, exec i s' = .next u ∧ AlikeBut a t u := by
  cases performs_of_wellFormed hw with
  | reserved eq => rw [eq] at h; cases h
  | read b eq =>
    obtain ⟨hb, hu⟩ := hs.busRead ha b
    rw [eq] at h ⊢
    exact hu.respond (congrArg _ hb) h
  | read16 b eq =>
    obtain ⟨hlo, hu⟩ := hs.busRead ha b
    obtain ⟨hhi, hu⟩ := hu.busRead ha (nextAddr b)
    rw [eq] at h ⊢
    exact hu.respond (congrArg Response.half (congrArg₂ joinBytes hhi hlo)) h
  | pending k eq =>
    obtain ⟨he, hu⟩ := hs.busRead ha ieAddr
    obtain ⟨hf, hu⟩ := hu.busRead ha ifAddr
    rw [eq] at h ⊢
    exact hu.respond (congrArg₂ (fun e f => Response.flag (irqBit (e &&& f) k)) he hf) h
  | classify b eq =>
    rw [eq] at h ⊢
    exact hs.respond rfl h
  | write b d names dma eq =>
    have hb : b ≠ dmaAddr := by simpa [hdma] using dma
    rw [eq] at h ⊢
    exact (hs.busWrite ha hb d).respond rfl h
  | write16 b w names namesNext dma eq =>
    have hb : b ≠ dmaAddr ∧ nextAddr b ≠ dmaAddr := by simpa [hdma] using dma
    rw [eq] at h ⊢
    exact ((hs.busWrite ha hb.1 _).busWrite ha hb.2 _).respond rfl h
  | rewrite reg k v irq names eq =>
    have hreg : reg ≠ dmaAddr := by
      rcases irq with rfl | rfl <;> decide
    rw [eq] at h ⊢
    exact (hs.rewriteIrq ha hreg k v).respond rfl h
  | force b d eq =>
    subst eq
    exact (hs.putByte b d).respond rfl h

/-- Settles O20. The state with the byte changed is alike but for that byte, and the instruction keeps it so. -/
theorem nonAuthoritativeBytesHidden : Obligations.NonAuthoritativeBytesHidden := by
  unfold Obligations.NonAuthoritativeBytesHidden
  intro s t i a v ha hw hdma h
  obtain ⟨u, hu, halike⟩ := exec_alikeBut ha (alikeBut_putByte_at s a v) hw hdma h
  exact ⟨u, hu, halike.trace, halike.responses, halike.inputs, halike.bytes⟩

end Sys2Proof.Machine
end

section
/-! Reads (R67, R69): a read at a port address is one port call, and any other is a view of the stored byte. -/

namespace Sys2Proof.Machine

/-- The read cases that call a port (R67). -/
def portReadCases : List ReadCase := [.cart, .vram, .oam, .joyp, .div]

theorem portAddr_iff (a : Addr) : portAddr a = true ↔ ∃ c ∈ portReadCases, readCaseAddr c a = true := by
  simp [portAddr, portReadCases, readCaseAddr, or_assoc]

theorem portAddr_iff_of_case {c : ReadCase} {a : Addr} (hc : readCaseAddr c a = true) :
    portAddr a = true ↔ c ∈ portReadCases := by
  rw [portAddr_iff]
  constructor
  · rintro ⟨e, he, hea⟩
    exact readCase_unique hc hea ▸ he
  · exact fun h => ⟨c, h, hc⟩

/-- A read at a port address is one port call (R67). -/
theorem busRead_of_portAddr {a : Addr} (h : portAddr a = true) (s : State) :
    ∃ event, busRead a s = callRead event s := by
  have hc := readCaseAddr_readCaseOf a
  rw [busRead_of_case hc]
  rw [portAddr_iff_of_case hc] at h
  cases hcase : readCaseOf a <;> rw [hcase] at h
  case cart | vram | oam | joyp | div => exact ⟨_, rfl⟩
  case irq | plain => exact absurd h (by decide)

/-- Any other read shows the stored byte, or a view of it, and leaves the state (R67, R69). -/
theorem busRead_of_not_portAddr {a : Addr} (h : portAddr a = false) :
    ∃ view : Byte → Byte, ∀ s, busRead a s = (view (byteAt s a), s) := by
  have hc := readCaseAddr_readCaseOf a
  rw [← Bool.not_eq_true, portAddr_iff_of_case hc] at h
  cases hcase : readCaseOf a <;> rw [hcase] at hc h
  case cart | vram | oam | joyp | div => exact absurd (by decide) h
  case irq => exact ⟨irqView, busRead_of_case hc⟩
  case plain => exact ⟨id, busRead_of_case hc⟩

/-- `READ` completes with the byte that `read` returns, the store unchanged, and the trace that `read` leaves. -/
theorem exec_read_next (p : Port) (a : Addr) (s : State) :
    ∃ t, exec (.read p a) s = .next t ∧ (∀ x, byteAt t x = byteAt s x) ∧ t.trace = (busRead a s).2.trace ∧
      t.responses = s.responses ++ [.byte (busRead a s).1] :=
  ⟨_, rfl, fun x => byteAt_busRead a x s, rfl, congrArg (· ++ [_]) (busRead_responses a s)⟩

/-- Settles O23. A port address makes the one call, and any other read leaves the whole state. -/
theorem readSideEffects : Obligations.ReadSideEffects := by
  unfold Obligations.ReadSideEffects
  intro p a s
  obtain ⟨t, ht, hbytes, htrace, -⟩ := exec_read_next p a s
  refine ⟨t, ht, hbytes, fun hport => ?_, fun hport => ?_⟩
  · obtain ⟨event, hcall⟩ := busRead_of_portAddr hport s
    obtain ⟨-, -, hevent, -, -⟩ := callRead_spec event s
    exact ⟨_, by rw [htrace, hcall, hevent]⟩
  · obtain ⟨view, hview⟩ := busRead_of_not_portAddr hport
    rw [htrace, hview]

end Sys2Proof.Machine
end

section
/-! The echo pairs as an involution (R62), and the frame of every instruction (R68). -/

namespace Sys2Proof.Machine

/-- The other address of a pair lies in a pair. -/
theorem mirrored_mirrorOf {a : Addr} (h : isMirroredWork a = true ∨ isEchoAddr a = true) :
    isMirroredWork (mirrorOf a) = true ∨ isEchoAddr (mirrorOf a) = true := by
  rcases h with h | h
  · rw [mirrorOf_of_work h]
    exact .inr (isEchoAddr_echoOf h)
  · rw [mirrorOf_of_echo h]
    exact .inl (isMirroredWork_workOf h)

theorem mirrorOf_mirrorOf {a : Addr} (h : isMirroredWork a = true ∨ isEchoAddr a = true) :
    mirrorOf (mirrorOf a) = a := by
  rcases h with h | h
  · rw [mirrorOf_of_work h, mirrorOf_of_echo (isEchoAddr_echoOf h), workOf_echoOf]
  · rw [mirrorOf_of_echo h, mirrorOf_of_work (isMirroredWork_workOf h), echoOf_workOf]

/-- Settles O29. The two maps undo each other, and the last 0x200 work-RAM bytes are moved past echo RAM. -/
theorem echoMapIsBijection : Obligations.EchoMapIsBijection := by
  unfold Obligations.EchoMapIsBijection
  refine fun a => ⟨fun h => ⟨isMirroredWork_workOf h, echoOf_workOf a⟩,
    fun h => ⟨isEchoAddr_echoOf h, workOf_echoOf a⟩, fun h => ?_⟩
  rw [inRange_iff] at h ⊢
  bv_omega

/-- Settles O24. A byte that is written is at a named address, mirrors one, or is cleared by a named LCDC. -/
theorem bytesChangeOnlyAsTabled : Obligations.BytesChangeOnlyAsTabled := by
  unfold Obligations.BytesChangeOnlyAsTabled
  intro i s t a hw h hname hmirror hlcdc
  have unnamed : ∀ {b}, namesTarget b i = true → namesTarget b i ≠ false := fun hb hf =>
    Bool.false_ne_true (hf.symm.trans hb)
  have hframe : ∀ b, namesTarget b i = true → ¬ storesAt b a := by
    rintro b hb (⟨rfl, -⟩ | ⟨hpair, rfl⟩ | ⟨rfl, hreset⟩)
    · exact unnamed hb hname
    · rw [mirrorOf_mirrorOf hpair] at hmirror
      exact unnamed hb (hmirror (mirrored_mirrorOf hpair))
    · exact unnamed hb (hlcdc hreset)
  have hkept : KeptBy (fun u => byteAt u a = byteAt s a) i := by
    refine keptBy_of_store (fun e hu => (byteAt_congr e a).trans hu) ?_ ?_
    · intro b d u hb hu
      rw [byteAt_busWrite_of_not_storesAt (hframe b hb), hu]
    · rintro b d u rfl hu
      have hne : a ≠ b := by
        rintro rfl
        simp [namesTarget] at hname
      rw [byteAt_putByte_other _ _ hne, hu]
  exact exec_keeps hkept hw rfl h

end Sys2Proof.Machine
end

section
/-! What a write leaves at its own address and at the other address of a pair, and so what a second write and a read find
there (R69, R71). -/

namespace Sys2Proof.Machine

/-! ## Partial writes -/

theorem mergeBits_none (d old : Byte) : mergeBits 0x00#8 d old = old := by
  rw [mergeBits, BitVec.and_zero, BitVec.zero_or]
  exact BitVec.and_allOnes

theorem mergeBits_all (d old : Byte) : mergeBits 0xFF#8 d old = d := by
  rw [mergeBits, show ~~~0xFF#8 = 0#8 from rfl, BitVec.and_zero, BitVec.or_zero]
  exact BitVec.and_allOnes

/-- A partial write repeated is the first one. -/
theorem mergeBits_mergeBits (mask d old : Byte) : mergeBits mask d (mergeBits mask d old) = mergeBits mask d old := by
  ext j hj
  simp only [mergeBits, BitVec.getElem_or, BitVec.getElem_and, BitVec.getElem_not]
  cases mask[j] <;> simp

/-! ## The bytes a write leaves -/

/-- The bits of its own byte that a write case replaces (R171 to R182): none where it is forwarded or discarded. -/
def writableBits : WriteCase → Byte
  | .cart | .vram | .oam | .div | .ly => 0x00#8
  | .stat => statWritable
  | .joyp => joypWritable
  | .wram | .echo | .lcdc | .dma | .plain => 0xFF#8

/-- The LCDC byte is stored whole, whether or not the reset follows (R175). -/
theorem byteAt_writeLcdc_self (d : Byte) (s : State) : byteAt (writeLcdc d s) lcdcAddr = d := by
  rw [writeLcdc]
  split
  · exact byteAt_putByte_self _ _ _
  · rw [byteAt_lcdOffReset _ (by decide) (by decide), byteAt_putByte_self]

/-- A write replaces the writable bits of the byte at its own address, in every case. -/
theorem byteAt_busWrite_self {c : WriteCase} {a : Addr} (hc : writeCaseAddr c a = true) (d : Byte) (s : State) :
    byteAt (busWrite a d s) a = mergeBits (writableBits c) d (byteAt s a) := by
  rw [busWrite_of_case hc]
  cases c <;> simp only [writeCaseAddr, beq_iff_eq] at hc <;>
    simp only [writableBits, mergeBits_none, mergeBits_all]
  case cart | vram | oam | div => exact byteAt_callWrite _ _ _
  case ly => rfl
  case plain => exact byteAt_putByte_self _ _ _
  case stat | joyp =>
    subst hc
    exact byteAt_putByte_self _ _ _
  case dma =>
    subst hc
    exact (byteAt_writeDma _ _ _).trans (byteAt_putByte_self _ _ _)
  case lcdc =>
    subst hc
    exact byteAt_writeLcdc_self d s
  case wram =>
    simp only [performWrite, writeWram]
    split <;> simp [byteAt_putByte]
  case echo => simp [performWrite, writeEcho, byteAt_putByte]

/-- A write to one side of a pair leaves its data on the other side (R172, R173). -/
theorem byteAt_busWrite_mirrorOf {a : Addr} (h : isMirroredWork a = true ∨ isEchoAddr a = true) (d : Byte) (s : State) :
    byteAt (busWrite a d s) (mirrorOf a) = d := by
  rcases h with h | h
  · rw [mirrorOf_of_work h, byteAt_busWrite_work h, if_pos (.inr rfl)]
  · rw [mirrorOf_of_echo h, byteAt_busWrite_echo h, if_pos (.inl rfl)]

/-! ## A write repeated -/

/-- The LCD-off reset leaves LY at 0 and clears the low bits of STAT (R175). -/
theorem byteAt_lcdOffReset_ly (s : State) : byteAt (lcdOffReset s) lyAddr = 0x00#8 := by
  rw [lcdOffReset, byteAt_putByte_other _ _ (by decide), byteAt_putByte_self]

theorem byteAt_lcdOffReset_stat (s : State) : byteAt (lcdOffReset s) statAddr = byteAt s statAddr &&& statWritable := by
  rw [lcdOffReset, byteAt_putByte_self, byteAt_putByte_other _ _ (by decide)]

/-- A second LCDC write of the same byte finds the LY and STAT that it would leave: with the display on it resets nothing, and
with the display off the first write has reset both (R69). -/
theorem byteAt_writeLcdc_again {d : Byte} {s u : State} (hu : ∀ x, byteAt u x = byteAt (writeLcdc d s) x) {x : Addr}
    (hx : x = lyAddr ∨ x = statAddr) : byteAt (writeLcdc d u) x = byteAt u x := by
  have hne : x ≠ lcdcAddr := by rcases hx with rfl | rfl <;> decide
  have hlcdc : byteAt u lcdcAddr = d := (hu _).trans (byteAt_writeLcdc_self d s)
  by_cases hon : displayOn d = true
  · rw [writeLcdc, if_pos (by simp [hlcdc, staysOn, hon]), byteAt_putByte_other _ _ hne]
  · have hreset : ∀ v, writeLcdc d v = lcdOffReset (putByte v lcdcAddr d) := fun v => if_neg (by simp [staysOn, hon])
    rw [hreset] at hu ⊢
    rcases hx with rfl | rfl
    · rw [hu, byteAt_lcdOffReset_ly, byteAt_lcdOffReset_ly]
    · rw [byteAt_lcdOffReset_stat, byteAt_putByte_other _ _ hne, hu, byteAt_lcdOffReset_stat, BitVec.and_assoc,
        BitVec.and_self]

/-- A second write of the same value, on the bytes that the first left, changes no byte (R69). -/
theorem byteAt_busWrite_again {a : Addr} {d : Byte} {s u : State} (hu : ∀ x, byteAt u x = byteAt (busWrite a d s) x)
    (x : Addr) : byteAt (busWrite a d u) x = byteAt u x := by
  by_cases hx : storesAt a x
  · rcases hx with ⟨rfl, -⟩ | ⟨hpair, rfl⟩ | ⟨rfl, hreset⟩
    · have hself := byteAt_busWrite_self (writeCaseAddr_writeCaseOf x) d
      rw [hself, hu, hself, mergeBits_mergeBits]
    · rw [hu, byteAt_busWrite_mirrorOf hpair, byteAt_busWrite_mirrorOf hpair]
    · have hlcdc := busWrite_of_case (c := .lcdc) (a := lcdcAddr) rfl d
      rw [hlcdc] at hu ⊢
      exact byteAt_writeLcdc_again hu hreset
  · exact byteAt_busWrite_of_not_storesAt hx d u

/-- Settles O25. A read without a port call is a view of a byte that the first read left, and a second write finds the bytes
that it would leave. -/
theorem repeatedAccessesAgree : Obligations.RepeatedAccessesAgree := by
  unfold Obligations.RepeatedAccessesAgree
  refine ⟨fun p q a s hport => ?_, fun p q a d s => ?_⟩
  · obtain ⟨view, hview⟩ := busRead_of_not_portAddr hport
    obtain ⟨t, ht, hbytes, -, hresp⟩ := exec_read_next p a s
    obtain ⟨u, hu, -, -, hresp'⟩ := exec_read_next q a t
    rw [hview] at hresp
    rw [hview, hbytes] at hresp'
    exact ⟨t, u, _, ht, hu, hresp, hresp'⟩
  · obtain ⟨t, ht, hbytes⟩ := exec_write_next p a d s
    obtain ⟨u, hu, hbytes'⟩ := exec_write_next q a d t
    exact ⟨t, u, ht, hu, fun x => (hbytes' x).trans (byteAt_busWrite_again hbytes x)⟩

/-! ## A read after a write -/

/-- The write cases that store the whole byte at their own address. -/
def wholeByteCases : List WriteCase := [.wram, .echo, .plain, .lcdc, .dma]

theorem wholeByte_iff (a : Addr) :
    (isWramAddr a || isEchoAddr a || isPlainWriteAddr a || a == lcdcAddr || a == dmaAddr) = true ↔
      ∃ c ∈ wholeByteCases, writeCaseAddr c a = true := by
  simp [wholeByteCases, writeCaseAddr, or_assoc]

theorem writableBits_of_wholeByte : ∀ c ∈ wholeByteCases, writableBits c = 0xFF#8 := by decide

/-- Where the whole byte is stored it is read plainly, but at IF and IE (R147). -/
theorem readCaseAddr_plain_of_wholeByte {c : WriteCase} {a : Addr} (h : c ∈ wholeByteCases) (hc : writeCaseAddr c a = true)
    (hif : a ≠ ifAddr) (hie : a ≠ ieAddr) : readCaseAddr .plain a = true := by
  have hranges := (writeCaseAddr_iff c a).mp hc
  rw [readCaseAddr_iff]
  simp only [Ne, addr_eq_iff, ifAddr, ieAddr] at hif hie
  fin_cases h <;> simp [writeCaseRanges, readCaseRanges] at hranges hif hie ⊢ <;> omega

/-- Both sides of a pair are read plainly (R147). -/
theorem readCaseAddr_plain_mirrorOf {a : Addr} (h : isMirroredWork a = true ∨ isEchoAddr a = true) :
    readCaseAddr .plain (mirrorOf a) = true :=
  (readCaseAddr_iff _ _).mpr ⟨(0xC000, 0xFDFF), by simp [readCaseRanges], mirrorOf_bounds h⟩

/-- A `READ` of a plain address after a `WRITE` that left `d` there responds with `d`. -/
theorem exec_write_read {a x : Addr} {d : Byte} {s : State} (hx : readCaseAddr .plain x = true)
    (hd : byteAt (busWrite a d s) x = d) (p q : Port) :
    ∃ t u, exec (.write p a d) s = .next t ∧ exec (.read q x) t = .next u ∧ u.responses = t.responses ++ [.byte d] := by
  obtain ⟨t, ht, hbytes⟩ := exec_write_next p a d s
  obtain ⟨u, hu, -, -, hresp⟩ := exec_read_next q x t
  have hread : (busRead x t).1 = d := by
    rw [busRead_of_case hx]
    exact (hbytes x).trans hd
  exact ⟨t, u, ht, hu, hread ▸ hresp⟩

/-- Settles O26. The write leaves its data at its own address and at the mirror, and both are read plainly. -/
theorem readAfterWrite : Obligations.ReadAfterWrite := by
  unfold Obligations.ReadAfterWrite
  intro p q a x d s h
  have mirror : ∀ {y}, isMirroredWork a = true ∨ isEchoAddr a = true → y = mirrorOf a →
      ∃ t u, exec (.write p a d) s = .next t ∧ exec (.read q y) t = .next u ∧
        u.responses = t.responses ++ [.byte d] := fun hpair hy =>
    hy ▸ exec_write_read (readCaseAddr_plain_mirrorOf hpair) (byteAt_busWrite_mirrorOf hpair d s) p q
  rcases h with ⟨rfl, hstored, hif, hie⟩ | ⟨hw, rfl⟩ | ⟨he, rfl⟩
  · obtain ⟨c, hmem, hc⟩ := (wholeByte_iff x).mp hstored
    refine exec_write_read (readCaseAddr_plain_of_wholeByte hmem hc hif hie) ?_ p q
    rw [byteAt_busWrite_self hc, writableBits_of_wholeByte c hmem, mergeBits_all]
  · exact mirror (.inl hw) (mirrorOf_of_work hw).symm
  · exact mirror (.inr he) (mirrorOf_of_echo he).symm

end Sys2Proof.Machine
end

section
/-! Decoder and encoder are inverse (R91, R92, R101, R102): the zero-field checks on a packed word, a word rebuilt from
its fields, and the dispatch case of a call by the case that holds its address. -/

namespace Sys2Proof.Machine

/-! ## The zero fields of R92 -/

theorem onlyAddr_iff {w : RequestWord} :
    onlyAddr w = true ↔ dataField w = 0#16 ∧ kindField w = 0#3 ∧ valField w = 0#1 := by
  simp [onlyAddr, and_assoc]

theorem onlyAddrByte_iff {w : RequestWord} :
    onlyAddrByte w = true ↔ dataHigh w = 0#8 ∧ kindField w = 0#3 ∧ valField w = 0#1 := by
  simp [onlyAddrByte, and_assoc]

theorem onlyAddrHalf_iff {w : RequestWord} : onlyAddrHalf w = true ↔ kindField w = 0#3 ∧ valField w = 0#1 := by
  simp [onlyAddrHalf]

theorem onlyKindVal_iff {w : RequestWord} : onlyKindVal w = true ↔ addrField w = 0#16 ∧ dataField w = 0#16 := by
  simp [onlyKindVal]

theorem onlyKind_iff {w : RequestWord} :
    onlyKind w = true ↔ addrField w = 0#16 ∧ dataField w = 0#16 ∧ valField w = 0#1 := by
  simp [onlyKind, and_assoc]

section Packed

variable (p : Port) (op : BitVec 4) (a : Addr) (d : Half) (b : Byte) (c : BitVec 3) (v : Bool)

@[simp] theorem onlyAddr_packed : onlyAddr (packWord p op (packRest a 0#16 0#3 false)) = true := by
  simp [onlyAddr_iff]

@[simp] theorem onlyAddrByte_packed :
    onlyAddrByte (packWord p op (packRest a (b.setWidth 16) 0#3 false)) = true := by simp [onlyAddrByte_iff]

@[simp] theorem onlyAddrHalf_packed : onlyAddrHalf (packWord p op (packRest a d 0#3 false)) = true := by
  simp [onlyAddrHalf_iff]

@[simp] theorem onlyKindVal_packed : onlyKindVal (packWord p op (packRest 0#16 0#16 c v)) = true := by
  simp [onlyKindVal_iff]

@[simp] theorem onlyKind_packed : onlyKind (packWord p op (packRest 0#16 0#16 c false)) = true := by
  simp [onlyKind_iff]

end Packed

@[simp] theorem ofBool_beq_one (v : Bool) : (BitVec.ofBool v == 1#1) = v := by cases v <;> rfl

@[simp] theorem unusedZero_true (i : Instr) : unusedZero true i = .ok i := rfl

/-- A packed interrupt-view word has the kind that was packed (R96). -/
@[simp] theorem withKind_packed (p : Port) (op : BitVec 4) (a : Addr) (d : Half) (k : Kind) (v ok : Bool)
    (f : Kind → Instr) : withKind (packWord p op (packRest a d (kindCode k) v)) ok f = unusedZero ok (f k) := by
  simp [withKind]

/-- A force packed for the privileged port is accepted (R98). -/
@[simp] theorem decodeForce_packed (op : BitVec 4) (a : Addr) (d : Byte) :
    decodeForce (packWord .privileged op (packRest a (d.setWidth 16) 0#3 false)) = .ok (.forceWrite a d) := by
  simp [decodeForce]

/-- A reserved code is accepted as the row that refuses it, whatever the bits below it (R98 (a)). -/
theorem decodeWord_of_reserved {w : RequestWord} (h : reservedOpWord w) :
    decodeWord w = .ok (.reserved (portOfBit (portField w)) (opField w) (restField w)) := by
  have hop : ∀ n < 9, (opField w).toNat ≠ n := fun n hn => by omega
  simp [decodeWord, hop]

/-! ## The dispatch case of a call -/

theorem readCaseOf_of_case {c : ReadCase} {a : Addr} (hc : readCaseAddr c a = true) : readCaseOf a = c :=
  readCase_unique (readCaseAddr_readCaseOf a) hc

theorem writeCaseOf_of_case {c : WriteCase} {a : Addr} (hc : writeCaseAddr c a = true) : writeCaseOf a = c :=
  writeCase_unique (writeCaseAddr_writeCaseOf a) hc

/-- The instruction of a read case (R101). -/
def readCaseInstr (a : Addr) : ReadCase → Instr
  | .cart => .readCart a
  | .irq => .readIrq a
  | .vram => .readVram a
  | .oam => .readOam a
  | .joyp => .readJoyp
  | .div => .readDiv
  | .plain => .readPlain a

/-- The instruction of a write case (R102). -/
def writeCaseInstr (a : Addr) (d : Byte) : WriteCase → Instr
  | .cart => .writeCart a d
  | .wram => .writeWram a d
  | .echo => .writeEcho a d
  | .div => .writeDiv d
  | .lcdc => .writeLcdc d
  | .ly => .writeLy d
  | .stat => .writeStat d
  | .joyp => .writeJoyp d
  | .vram => .writeVram a d
  | .oam => .writeOam a d
  | .dma => .writeDma d
  | .plain => .writePlain a d

/-- The call `read(a)` is decoded to the case that holds the address (R101). -/
theorem decode_readAt {c : ReadCase} {a : Addr} (hc : readCaseAddr c a = true) :
    decode (.readAt a) = .ok (readCaseInstr a c) := by
  rw [decode, readInstr, readCaseOf_of_case hc]
  cases c <;> rfl

/-- The call `write(a, d)` is decoded to the case that holds the address (R102). -/
theorem decode_writeAt {c : WriteCase} {a : Addr} (hc : writeCaseAddr c a = true) (d : Byte) :
    decode (.writeAt a d) = .ok (writeCaseInstr a d c) := by
  rw [decode, writeInstr, writeCaseOf_of_case hc]
  cases c <;> rfl

/-- The instruction of a read case is encoded as the call at its address. -/
theorem encode_readCaseInstr {c : ReadCase} {a : Addr} (hc : readCaseAddr c a = true) :
    encode (readCaseInstr a c) = .readAt a := by
  cases c
  case joyp | div => rw [beq_iff_eq.mp hc]; rfl
  case cart | irq | vram | oam | plain => rfl

/-- The instruction of a write case is encoded as the call at its address. -/
theorem encode_writeCaseInstr {c : WriteCase} {a : Addr} (hc : writeCaseAddr c a = true) (d : Byte) :
    encode (writeCaseInstr a d c) = .writeAt a d := by
  cases c
  case div | lcdc | ly | stat | joyp | dma => rw [beq_iff_eq.mp hc]; rfl
  case cart | wram | echo | vram | oam | plain => rfl

/-! ## Decode after encode -/

/-- Settles O1. A packed word has the fields that were packed, and a dispatch case's address selects that case. -/
theorem decodeOfEncodeIsInstruction : Obligations.DecodeOfEncodeIsInstruction := by
  unfold Obligations.DecodeOfEncodeIsInstruction
  intro i hw
  cases i with
  | read | write | read16 | write16 | forceWrite | setEnable | setFlag | intPending | classify =>
    simp [encode, decode, decodeWord]
  | reserved p op bits =>
    have hop : reservedOpWord (packWord p op bits) := by simpa [reservedOpWord, wellFormed] using hw
    simpa [encode, decode] using decodeWord_of_reserved hop
  | readCart a => exact decode_readAt (c := .cart) hw
  | readIrq a => exact decode_readAt (c := .irq) hw
  | readVram a => exact decode_readAt (c := .vram) hw
  | readOam a => exact decode_readAt (c := .oam) hw
  | readJoyp => exact decode_readAt (c := .joyp) rfl
  | readDiv => exact decode_readAt (c := .div) rfl
  | readPlain a => exact decode_readAt (c := .plain) hw
  | writeCart a d => exact decode_writeAt (c := .cart) hw d
  | writeWram a d => exact decode_writeAt (c := .wram) hw d
  | writeEcho a d => exact decode_writeAt (c := .echo) hw d
  | writeDiv d => exact decode_writeAt (c := .div) rfl d
  | writeLcdc d => exact decode_writeAt (c := .lcdc) rfl d
  | writeLy d => exact decode_writeAt (c := .ly) rfl d
  | writeStat d => exact decode_writeAt (c := .stat) rfl d
  | writeJoyp d => exact decode_writeAt (c := .joyp) rfl d
  | writeVram a d => exact decode_writeAt (c := .vram) hw d
  | writeOam a d => exact decode_writeAt (c := .oam) hw d
  | writeDma d => exact decode_writeAt (c := .dma) rfl d
  | writePlain a d => exact decode_writeAt (c := .plain) hw d

/-! ## Encode after decode -/

theorem ofBool_of_bit (b : BitVec 1) : BitVec.ofBool (b == 1#1) = b := by
  revert b
  decide

/-- A 16-bit field whose high byte is zero is its low byte. -/
theorem dataField_of_dataHigh {w : RequestWord} (h : dataHigh w = 0#8) : dataField w = (dataLow w).setWidth 16 := by
  have hsplit : ∀ x : Half, x.extractLsb' 8 8 = 0#8 → x = (x.extractLsb' 0 8).setWidth 16 := fun x hx => by
    rw [← BitVec.toNat_inj, BitVec.extractLsb'_toNat] at hx
    apply BitVec.eq_of_toNat_eq
    simp [Nat.shiftRight_eq_div_pow] at hx ⊢
    omega
  exact hsplit _ h

section Word

variable {w : RequestWord} {p : Port} {op : BitVec 4} (hp : portOfBit (portField w) = p)
  (hop : (opField w).toNat = op.toNat)
include hp hop

/-- A word is the packing of its fields (R91). -/
theorem word_of_fields {a : Addr} {d : Half} {c : BitVec 3} {v : Bool} (ha : addrField w = a) (hd : dataField w = d)
    (hk : kindField w = c) (hv : valField w = BitVec.ofBool v) :
    Request.word (packWord p op (packRest a d c v)) = .word w := by
  have hval : (valField w == 1#1) = v := by rw [hv, ofBool_beq_one]
  rw [← hp, ← BitVec.eq_of_toNat_eq hop, ← ha, ← hd, ← hk, ← hval, packRest_fields, packWord_fields]

theorem word_of_onlyAddr (h : onlyAddr w = true) :
    Request.word (packWord p op (packRest (addrField w) 0#16 0#3 false)) = .word w := by
  obtain ⟨hd, hk, hv⟩ := onlyAddr_iff.mp h
  exact word_of_fields hp hop rfl hd hk hv

theorem word_of_onlyAddrByte (h : onlyAddrByte w = true) :
    Request.word (packWord p op (packRest (addrField w) ((dataLow w).setWidth 16) 0#3 false)) = .word w := by
  obtain ⟨hd, hk, hv⟩ := onlyAddrByte_iff.mp h
  exact word_of_fields hp hop rfl (dataField_of_dataHigh hd) hk hv

theorem word_of_onlyAddrHalf (h : onlyAddrHalf w = true) :
    Request.word (packWord p op (packRest (addrField w) (dataField w) 0#3 false)) = .word w := by
  obtain ⟨hk, hv⟩ := onlyAddrHalf_iff.mp h
  exact word_of_fields hp hop rfl rfl hk hv

theorem word_of_onlyKindVal (h : onlyKindVal w = true) {k : Kind} (hk : kindOfCode (kindField w) = some k) :
    Request.word (packWord p op (packRest 0#16 0#16 (kindCode k) (valField w == 1#1))) = .word w := by
  obtain ⟨ha, hd⟩ := onlyKindVal_iff.mp h
  exact word_of_fields hp hop ha hd (kindOfCode_eq_some hk).symm (ofBool_of_bit _).symm

theorem word_of_onlyKind (h : onlyKind w = true) {k : Kind} (hk : kindOfCode (kindField w) = some k) :
    Request.word (packWord p op (packRest 0#16 0#16 (kindCode k) false)) = .word w := by
  obtain ⟨ha, hd, hv⟩ := onlyKind_iff.mp h
  exact word_of_fields hp hop ha hd (kindOfCode_eq_some hk).symm hv

end Word

/-- The instruction read from a word is encoded as that word: the fields that it does not use were found zero. -/
theorem encode_of_decodeWord {w : RequestWord} {i : Instr} (h : decodeWord w = .ok i) : encode i = .word w := by
  unfold decodeWord at h
  dsimp only at h
  split_ifs at h with hop hop hop hop hop hop hop hop hop
  · obtain ⟨hz, rfl⟩ := unusedZero_eq_ok h
    exact word_of_onlyAddr rfl hop hz
  · obtain ⟨hz, rfl⟩ := unusedZero_eq_ok h
    exact word_of_onlyAddrByte rfl hop hz
  · obtain ⟨hz, rfl⟩ := unusedZero_eq_ok h
    exact word_of_onlyAddr rfl hop hz
  · obtain ⟨hz, rfl⟩ := unusedZero_eq_ok h
    exact word_of_onlyAddrHalf rfl hop hz
  · obtain ⟨hz, hp, rfl⟩ := decodeForce_eq_ok h
    exact word_of_onlyAddrByte hp hop hz
  · obtain ⟨hz, k, hk, rfl⟩ := withKind_eq_ok h
    exact word_of_onlyKindVal rfl hop hz hk
  · obtain ⟨hz, k, hk, rfl⟩ := withKind_eq_ok h
    exact word_of_onlyKindVal rfl hop hz hk
  · obtain ⟨hz, k, hk, rfl⟩ := withKind_eq_ok h
    exact word_of_onlyKind rfl hop hz hk
  · obtain ⟨hz, rfl⟩ := unusedZero_eq_ok h
    exact word_of_onlyAddr rfl hop hz
  · cases h
    exact congrArg Request.word (packWord_fields w)

/-- Settles O2. A word's unused fields were found zero, and a call's address belongs to the case that it selects. -/
theorem encodeOfDecodeIsRequest : Obligations.EncodeOfDecodeIsRequest := by
  unfold Obligations.EncodeOfDecodeIsRequest
  intro r i h
  refine ⟨wellFormed_of_decode h, ?_⟩
  cases r with
  | word w => exact encode_of_decodeWord h
  | readAt a =>
    have hc := readCaseAddr_readCaseOf a
    obtain rfl := Except.ok.inj ((decode_readAt hc).symm.trans h)
    exact encode_readCaseInstr hc
  | writeAt a d =>
    have hc := writeCaseAddr_writeCaseOf a
    obtain rfl := Except.ok.inj ((decode_writeAt hc d).symm.trans h)
    exact encode_writeCaseInstr hc d

end Sys2Proof.Machine
end

section
/-! Refusals (R98, R241): the words that the decoder rejects, and the one instruction that refuses. -/

namespace Sys2Proof.Machine

/-! ## Rejected words -/

theorem unusedZero_eq_error_iff {ok : Bool} {i : Instr} : (∃ e, unusedZero ok i = .error e) ↔ ok ≠ true := by
  cases ok <;> simp [unusedZero]

theorem withKind_eq_error_iff {w : RequestWord} {ok : Bool} {f : Kind → Instr} :
    (∃ e, withKind w ok f = .error e) ↔ 5 ≤ (kindField w).toNat ∨ ok ≠ true := by
  rw [← kindOfCode_eq_none, withKind]
  cases kindOfCode (kindField w) <;> simp [unusedZero_eq_error_iff]

theorem portOfBit_eq_cpu {b : BitVec 1} : portOfBit b = .cpu ↔ b = 0#1 := by
  revert b
  decide

theorem decodeForce_eq_error_iff {w : RequestWord} :
    (∃ e, decodeForce w = .error e) ↔ onlyAddrByte w ≠ true ∨ portField w = 0#1 := by
  rw [← portOfBit_eq_cpu, decodeForce]
  cases onlyAddrByte w <;> cases portOfBit (portField w) <;> simp

/-- The decoder rejects the words of R98 (b) to (d) and no others: under each code, those of its row of R92. -/
theorem decodeWord_eq_error_iff {w : RequestWord} :
    (∃ e, decodeWord w = .error e) ↔ badKindWord w ∨ unusedNonZeroWord w ∨ forceOnCpuWord w := by
  unfold decodeWord badKindWord unusedNonZeroWord forceOnCpuWord
  dsimp only
  split_ifs <;>
    simp [*, unusedZero_eq_error_iff, withKind_eq_error_iff, decodeForce_eq_error_iff, onlyAddr_iff, onlyAddrByte_iff,
      onlyAddrHalf_iff, onlyKindVal_iff, onlyKind_iff, imp_iff_not_or]

/-! ## The instruction that refuses -/

/-- Every instruction but a reserved one answers a next state (R240). -/
theorem exec_next_of_not_reserved {i : Instr} (hi : ∀ p op bits, i ≠ .reserved p op bits) (s : State) :
    ∃ t, exec i s = .next t := by
  cases i with
  | reserved p op bits => exact absurd rfl (hi p op bits)
  | _ => exact ⟨_, rfl⟩

theorem exec_reserved (p : Port) (op : BitVec 4) (bits : BitVec 36) (s : State) :
    exec (.reserved p op bits) s = .refused .reservedOp := rfl

/-- An instruction is refused exactly when it is a reserved one. -/
theorem exec_refused_iff {i : Instr} {s : State} :
    (∃ r, exec i s = .refused r) ↔ ∃ p op bits, i = .reserved p op bits := by
  constructor
  · rintro ⟨r, hr⟩
    by_contra hne
    push Not at hne
    obtain ⟨t, ht⟩ := exec_next_of_not_reserved hne s
    exact nomatch hr.symm.trans ht
  · rintro ⟨p, op, bits, rfl⟩
    exact ⟨_, exec_reserved p op bits s⟩

/-- A word is read as a reserved instruction exactly when its code is reserved (R98 (a)). -/
theorem decodeWord_eq_reserved_iff {w : RequestWord} :
    (∃ p op bits, decodeWord w = .ok (.reserved p op bits)) ↔ reservedOpWord w := by
  constructor
  · rintro ⟨p, op, bits, h⟩
    have hw : 9 ≤ op.toNat := by simpa [wellFormed] using wellFormed_of_decodeWord h
    obtain rfl : packWord p op bits = w := Request.word.inj (encode_of_decodeWord h)
    simpa [reservedOpWord] using hw
  · exact fun h => ⟨_, _, _, decodeWord_of_reserved h⟩

/-- A step is refused exactly when the decoder rejects the word, or reads a reserved instruction from it (R241). -/
theorem step_refused_iff {s : State} {w : RequestWord} {rest : List Request} (hr : s.requests = .word w :: rest) :
    (∃ r, step s = .refused r) ↔
      (∃ p op bits, decodeWord w = .ok (.reserved p op bits)) ∨ ∃ e, decodeWord w = .error e := by
  rw [step_of_request hr, decode]
  cases decodeWord w with
  | ok i => simp [exec_refused_iff]
  | error e => simp

/-- Settles O8. The reserved codes are the accepted words that refuse, and the other conditions are the decoder's. -/
theorem refusedExactlyWhenR98Says : Obligations.RefusedExactlyWhenR98Says := by
  unfold Obligations.RefusedExactlyWhenR98Says
  intro s w rest hr
  rw [step_refused_iff hr, decodeWord_eq_reserved_iff, decodeWord_eq_error_iff]

/-- Settles O10. The packed word is read back as the reserved instruction, which refuses. -/
theorem reservedOpIsRefused : Obligations.ReservedOpIsRefused := by
  unfold Obligations.ReservedOpIsRefused
  intro p op bits s rest hop
  have hd : decode (.word (packWord p op bits)) = .ok (.reserved p op bits) :=
    decodeOfEncodeIsInstruction (.reserved p op bits) (decide_eq_true hop)
  refine ⟨exec_reserved p op bits s, ?_⟩
  rw [step_of_request rfl, hd]
  exact exec_reserved p op bits _

/-- Settles O3. The decoder and the text form are evaluated on each example. -/
theorem specWordsDecode : Obligations.SpecWordsDecode := by
  unfold Obligations.SpecWordsDecode
  refine ⟨rfl, rfl, rfl, rfl, rfl, rfl, rfl, rfl, rfl, rfl, rfl, ?_, ?_, ?_⟩ <;> decide

end Sys2Proof.Machine
end

section
/-! The dispatch maps of R101 and R102: one case per address, the case that `READ` and `WRITE` perform there, and the calls
that name the case. -/

namespace Sys2Proof.Machine

/-! ## One case per address -/

/-- A read case holds exactly the addresses that select it. -/
theorem readCaseAddr_eq (c : ReadCase) (a : Addr) : readCaseAddr c a = decide (c = readCaseOf a) := by
  rw [Bool.eq_iff_iff, decide_eq_true_iff]
  exact ⟨fun hc => (readCaseOf_of_case hc).symm, fun hc => hc ▸ readCaseAddr_readCaseOf a⟩

/-- A write case holds exactly the addresses that select it. -/
theorem writeCaseAddr_eq (c : WriteCase) (a : Addr) : writeCaseAddr c a = decide (c = writeCaseOf a) := by
  rw [Bool.eq_iff_iff, decide_eq_true_iff]
  exact ⟨fun hc => (writeCaseOf_of_case hc).symm, fun hc => hc ▸ writeCaseAddr_writeCaseOf a⟩

/-- The seven cases, in the order of R101. -/
def readCases : List ReadCase := [.cart, .irq, .vram, .oam, .joyp, .div, .plain]

/-- The twelve cases, in the order of R102. -/
def writeCases : List WriteCase :=
  [.cart, .wram, .echo, .div, .lcdc, .ly, .stat, .joyp, .vram, .oam, .dma, .plain]

/-- One read case holds the address (R101). -/
theorem count_readCases (a : Addr) : (readCases.map (fun c => readCaseAddr c a)).count true = 1 := by
  simp only [readCaseAddr_eq]
  cases readCaseOf a <;> rfl

/-- One write case holds the address (R102). -/
theorem count_writeCases (a : Addr) : (writeCases.map (fun c => writeCaseAddr c a)).count true = 1 := by
  simp only [writeCaseAddr_eq]
  cases writeCaseOf a <;> rfl

/-! ## The case performed -/

/-- `READ` performs the case that holds the address, on either port (R101, R247). -/
theorem exec_read_of_case {c : ReadCase} {a : Addr} (hc : readCaseAddr c a = true) (p : Port) (s : State) :
    exec (.read p a) s = exec (readCaseInstr a c) s :=
  calc exec (.read p a) s = respondByte (busRead a s) := rfl
    _ = respondByte (performRead a s c) := by rw [busRead_of_case hc]
    _ = exec (readCaseInstr a c) s := by cases c <;> rfl

/-- `WRITE` performs the case that holds the address, on either port (R102, R247). -/
theorem exec_write_of_case {c : WriteCase} {a : Addr} (hc : writeCaseAddr c a = true) (p : Port) (d : Byte)
    (s : State) : exec (.write p a d) s = exec (writeCaseInstr a d c) s :=
  calc exec (.write p a d) s = respondNone (busWrite a d s) := rfl
    _ = respondNone (performWrite a d s c) := by rw [busWrite_of_case hc]
    _ = exec (writeCaseInstr a d c) s := by cases c <;> rfl

/-- Settles O5. The cases' address sets are those of the case selected, and `READ` performs that case. -/
theorem readSelectsExactlyOneCase : Obligations.ReadSelectsExactlyOneCase := by
  unfold Obligations.ReadSelectsExactlyOneCase
  intro p a s
  have performs : ∀ c, readCaseAddr c a = true → exec (.read p a) s = exec (readCaseInstr a c) s :=
    fun c hc => exec_read_of_case hc p s
  exact ⟨count_readCases a, performs .cart, performs .irq, performs .vram, performs .oam,
    fun h => performs .joyp (beq_iff_eq.mpr h), fun h => performs .div (beq_iff_eq.mpr h), performs .plain⟩

/-- Settles O6. The cases' address sets are those of the case selected, and `WRITE` performs that case. -/
theorem writeSelectsExactlyOneCase : Obligations.WriteSelectsExactlyOneCase := by
  unfold Obligations.WriteSelectsExactlyOneCase
  intro p a d s
  have performs : ∀ c, writeCaseAddr c a = true → exec (.write p a d) s = exec (writeCaseInstr a d c) s :=
    fun c hc => exec_write_of_case hc p d s
  exact ⟨count_writeCases a, performs .cart, performs .wram, performs .echo,
    fun h => performs .div (beq_iff_eq.mpr h), fun h => performs .lcdc (beq_iff_eq.mpr h),
    fun h => performs .ly (beq_iff_eq.mpr h), fun h => performs .stat (beq_iff_eq.mpr h),
    fun h => performs .joyp (beq_iff_eq.mpr h), performs .vram, performs .oam,
    fun h => performs .dma (beq_iff_eq.mpr h), performs .plain⟩

/-- Two requests step alike where their instructions do the same. -/
theorem step_congr {r q : Request} {i j : Instr} (hr : decode r = .ok i) (hq : decode q = .ok j)
    (h : ∀ s, exec i s = exec j s) (s : State) (rest : List Request) :
    step { s with requests := r :: rest } = step { s with requests := q :: rest } := by
  rw [step_of_request rfl, step_of_request rfl, hr, hq]
  exact h _

/-- Settles O7. The call names the case that `READ` or `WRITE` performs at its address. -/
theorem callAndWordStepAlike : Obligations.CallAndWordStepAlike := by
  unfold Obligations.CallAndWordStepAlike
  intro p a d s rest
  have hread := readCaseAddr_readCaseOf a
  have hwrite := writeCaseAddr_writeCaseOf a
  exact ⟨step_congr (decode_readAt hread) (decodeOfEncodeIsInstruction (.read p a) rfl)
      (fun u => (exec_read_of_case hread p u).symm) s rest,
    step_congr (decode_writeAt hwrite d) (decodeOfEncodeIsInstruction (.write p a d) rfl)
      (fun u => (exec_write_of_case hwrite p d u).symm) s rest⟩

end Sys2Proof.Machine
end

section
/-! The region rows of R100 tile the address space in ascending order, each inside the region of its name. -/

namespace Sys2Proof.Machine

/-- The rows' ranges follow one another without a gap, from `lo` up to `hi`. -/
def tiles {α : Type} (lo : Nat) (rows : List (AddrRow α)) (hi : Nat) : Bool :=
  match rows with
  | [] => lo == hi
  | r :: rows => r.pattern.toNat == lo && tiles (lo + (65536 - r.mask.toNat)) rows hi

/-- An address below the first row meets none of them. -/
theorem filter_rowHits_below {α : Type} {rows : List (AddrRow α)} {lo hi : Nat} {a : Addr}
    (hrows : ∀ r ∈ rows, TopBitsRow r) (ht : tiles lo rows hi = true) (ha : a.toNat < lo) :
    rows.filter (fun r => rowHits r a) = [] := by
  induction rows generalizing lo with
  | nil => rfl
  | cons r rows ih =>
    simp only [tiles, Bool.and_eq_true, beq_iff_eq] at ht
    obtain ⟨hlo, ht⟩ := ht
    have hmiss : ¬ rowHits r a = true := by
      rw [rowHits_range (hrows r (by simp))]
      omega
    rw [List.filter_cons, if_neg hmiss]
    exact ih (fun q hq => hrows q (by simp [hq])) ht (by omega)

/-- An address between the ends meets exactly one row. -/
theorem filter_rowHits_eq_singleton {α : Type} {rows : List (AddrRow α)} {lo hi : Nat} {a : Addr}
    (hrows : ∀ r ∈ rows, TopBitsRow r) (ht : tiles lo rows hi = true) (hlo : lo ≤ a.toNat) (hhi : a.toNat < hi) :
    ∃ r ∈ rows, rows.filter (fun r => rowHits r a) = [r] := by
  induction rows generalizing lo with
  | nil =>
    have : lo = hi := by simpa [tiles] using ht
    omega
  | cons r rows ih =>
    simp only [tiles, Bool.and_eq_true, beq_iff_eq] at ht
    obtain ⟨hpattern, ht⟩ := ht
    have hrest : ∀ q ∈ rows, TopBitsRow q := fun q hq => hrows q (by simp [hq])
    have hhit := rowHits_range (hrows r (by simp)) a
    by_cases hend : a.toNat < lo + (65536 - r.mask.toNat)
    · have h : rowHits r a = true := by
        rw [hhit]
        omega
      exact ⟨r, by simp, by rw [List.filter_cons, if_pos h, filter_rowHits_below hrest ht hend]⟩
    · have h : ¬ rowHits r a = true := by
        rw [hhit]
        omega
      obtain ⟨q, hq, hfilter⟩ := ih hrest ht (by omega)
      exact ⟨q, by simp [hq], by rw [List.filter_cons, if_neg h, hfilter]⟩

/-! ## The 23 rows -/

theorem regionRows_topBits : ∀ r ∈ regionRows, TopBitsRow r := by decide

theorem regionRows_tile : tiles 0 regionRows 65536 = true := by decide

/-- A region row lies inside the region of its name (R121). -/
theorem regionRows_bounds : ∀ r ∈ regionRows,
    firstAddr r.tag ≤ r.pattern.toNat ∧ r.pattern.toNat + (65536 - r.mask.toNat) ≤ lastAddr r.tag + 1 := by decide

/-- A region row that an address meets names the classifier's region. -/
theorem classify_of_rowHits {r : AddrRow Region} (hr : r ∈ regionRows) {a : Addr} (h : rowHits r a = true) :
    classify a = r.tag := by
  have hrange := (rowHits_range (regionRows_topBits r hr) a).mp h
  have hbounds := regionRows_bounds r hr
  rw [classify_iff]
  omega

/-- Settles O4. The rows tile the address space, and each lies in the region that it names. -/
theorem regionRowsAgreeWithClassifier : Obligations.RegionRowsAgreeWithClassifier := by
  unfold Obligations.RegionRowsAgreeWithClassifier
  intro a
  obtain ⟨r, hr, hfilter⟩ :=
    filter_rowHits_eq_singleton regionRows_topBits regionRows_tile (Nat.zero_le a.toNat) a.isLt
  have hhit : r ∈ regionRows.filter (fun r => rowHits r a) := by simp [hfilter]
  rw [hfilter, classify_of_rowHits hr (List.mem_filter.mp hhit).2]
  rfl

end Sys2Proof.Machine
end

section
/-! `CLASSIFY` over the twelve ranges of R121. -/

namespace Sys2Proof.Machine

/-- An instruction that only responds stores no byte, calls no port and leaves the inputs alone. -/
theorem completes_of_respond {i : Instr} {s : State} {r : Response} (h : exec i s = respond r s) :
    Completes i s [] [] r := by
  refine ⟨_, h.trans (respond_eq r s), ?_, fun _ _ => byteAt_congr rfl _, ?_, rfl, rfl, rfl, rfl⟩
  · intro c hc
    exact absurd hc List.not_mem_nil
  · exact (List.append_nil _).symm

/-- Between a region's first and last address, the classifier gives that region, and so its code (R95, R121). -/
theorem classify_and_code_of_bounds {a : Addr} (r : Region) (h : firstAddr r ≤ a.toNat ∧ a.toNat ≤ lastAddr r) :
    classify a = r ∧ regionCode (classify a) = regionCode r := by
  have hr : classify a = r := (classify_iff a r).mpr h
  exact ⟨hr, congrArg regionCode hr⟩

/-- Settles O30. Each range of the statement is a region's first and last address. -/
theorem classifyGivesTheRegion : Obligations.ClassifyGivesTheRegion := by
  unfold Obligations.ClassifyGivesTheRegion
  intro p a s
  exact ⟨classify a, regionCode (classify a), rfl, completes_of_respond rfl, rfl, regionCode_le _,
    fun h => classify_and_code_of_bounds .bankZero ⟨Nat.zero_le _, h⟩,
    classify_and_code_of_bounds .bankSwitchable,
    classify_and_code_of_bounds .videoRAM,
    classify_and_code_of_bounds .externalRAM,
    classify_and_code_of_bounds .workRAM1,
    classify_and_code_of_bounds .workRAM2,
    classify_and_code_of_bounds .echoRAM,
    classify_and_code_of_bounds .spriteAttributeTable,
    classify_and_code_of_bounds .notUsable,
    classify_and_code_of_bounds .ioRegisters,
    classify_and_code_of_bounds .highRAM,
    fun h => classify_and_code_of_bounds .interruptEnable ⟨h.ge, h.le⟩⟩

end Sys2Proof.Machine
end

section
/-! The read path by its cases (R141 to R147): what `READ` and the case's own instruction leave at an address of the case,
and `READ16` as two reads (R150). -/

namespace Sys2Proof.Machine

/-! ## One read -/

/-- `READ` answers next with the state that `read` leaves, and its byte as the one response. -/
theorem exec_read_eq (p : Port) (a : Addr) (s : State) :
    exec (.read p a) s =
      .next { (busRead a s).2 with responses := s.responses ++ [.byte (busRead a s).1] } :=
  calc exec (.read p a) s = respond (.byte (busRead a s).1) (busRead a s).2 := rfl
    _ = _ := by rw [respond_eq, busRead_responses]

/-- `READ` and the case that holds the address both end with the case's byte (R101). -/
theorem exec_eq_performRead {c : ReadCase} {a : Addr} (hc : readCaseAddr c a = true) (p : Port) (s : State) :
    ∀ i ∈ [Instr.read p a, readCaseInstr a c], exec i s = respondByte (performRead a s c) := by
  have hcase : exec (readCaseInstr a c) s = respondByte (performRead a s c) := by cases c <;> rfl
  exact List.forall_mem_cons.mpr ⟨(exec_read_of_case hc p s).trans hcase, List.forall_mem_singleton.mpr hcase⟩

/-! ## Reads that call a port -/

/-- An instruction that ends with the byte of one port call changes no stored byte and records the answer (R43). -/
theorem readsPort_of_callRead {i : Instr} {s : State} {event : Byte → PortEvent}
    (h : exec i s = respondByte (callRead event s)) : ReadsPort i s event := by
  obtain ⟨hdraws, hstore, htrace, hrequests, hresponses⟩ := callRead_spec event s
  exact ⟨_, _, h.trans (respond_eq _ _), draws_congr hdraws rfl rfl, byteAt_congr hstore, htrace,
    congrArg (· ++ [_]) hresponses, hrequests⟩

/-- At an address of a case that calls a port, `READ` and the case make that call. -/
theorem readsPort_of_case {c : ReadCase} {a : Addr} (hc : readCaseAddr c a = true) {s : State}
    {event : Byte → PortEvent} (hcall : performRead a s c = callRead event s) (p : Port) :
    ∀ i ∈ [Instr.read p a, readCaseInstr a c], ReadsPort i s event := fun i hi =>
  readsPort_of_callRead (hcall ▸ exec_eq_performRead hc p s i hi)

/-- Settles O31. The case passes the address as it is and no byte of the store. -/
theorem cartridgeRead : Obligations.CartridgeRead := by
  unfold Obligations.CartridgeRead
  intro p a s ha
  simpa [readCaseInstr] using readsPort_of_case (c := .cart) ha (s := s) rfl p

/-- Settles O32. The two video cases are one port call each, at their own addresses. -/
theorem videoRead : Obligations.VideoRead := by
  unfold Obligations.VideoRead
  intro p a s
  constructor
  · intro ha
    simpa [readCaseInstr] using readsPort_of_case (c := .vram) ha (s := s) rfl p
  · intro ha
    simpa [readCaseInstr] using readsPort_of_case (c := .oam) ha (s := s) rfl p

/-- Settles O33. The case passes the stored byte of 0xFF00 as it is. -/
theorem joypadRead : Obligations.JoypadRead := by
  unfold Obligations.JoypadRead
  intro p s
  exact readsPort_of_case (c := .joyp) (a := joypAddr) rfl rfl p

/-- Settles O34. The call has no argument, so the stored byte of 0xFF04 is not consulted. -/
theorem dividerRead : Obligations.DividerRead := by
  unfold Obligations.DividerRead
  intro p s
  exact readsPort_of_case (c := .div) (a := divAddr) rfl rfl p

/-! ## Reads of the store -/

/-- At an address of a case that returns a byte and leaves the state, `READ` and the case do only that. -/
theorem completes_of_readCase {c : ReadCase} {a : Addr} (hc : readCaseAddr c a = true) {s : State} {b : Byte}
    (hview : performRead a s c = (b, s)) (p : Port) :
    ∀ i ∈ [Instr.read p a, readCaseInstr a c], Completes i s [] [] (.byte b) := fun i hi =>
  completes_of_respond (by rw [exec_eq_performRead hc p s i hi, hview, respondByte])

/-- Settles O35. Both addresses are of the one case, whose view is the stored byte with bits 7:5 set. -/
theorem interruptRegisterRead : Obligations.InterruptRegisterRead := by
  unfold Obligations.InterruptRegisterRead
  intro p a s ha
  have hirq : readCaseAddr .irq a = true := by rcases ha with rfl | rfl <;> rfl
  exact completes_of_readCase hirq rfl p

/-- Settles O36. The view of the remaining case is the stored byte itself. -/
theorem plainRead : Obligations.PlainRead := by
  unfold Obligations.PlainRead
  intro p a s ha
  exact completes_of_readCase (c := .plain) ha rfl p

/-! ## Two reads -/

/-- The responses given so far play no part in what a `READ` does. -/
theorem exec_read_withResponses (p : Port) (a : Addr) (s : State) (r : List Response) :
    exec (.read p a) { s with responses := r } =
      .next { (busRead a s).2 with responses := r ++ [.byte (busRead a s).1] } := by
  rw [exec_read_eq, busRead_withResponses]

/-- `READ16` leaves what two reads leave, and joins their bytes in the one response (R150). -/
theorem exec_read16_eq (p : Port) (a : Addr) (s : State) :
    let lo := busRead a s
    let hi := busRead (nextAddr a) lo.2
    exec (.read16 p a) s = .next { hi.2 with responses := s.responses ++ [.half (joinBytes hi.1 lo.1)] } := by
  intro lo hi
  have hresponses : hi.2.responses = s.responses := by rw [busRead_responses, busRead_responses]
  calc exec (.read16 p a) s = respond (.half (joinBytes hi.1 lo.1)) hi.2 := rfl
    _ = _ := by rw [respond_eq, hresponses]

/-- Settles O37. The response that the first `READ` adds plays no part in the second. -/
theorem read16IsTwoReads : Obligations.Read16IsTwoReads := by
  unfold Obligations.Read16IsTwoReads
  intro p a s
  exact ⟨_, _, _, _, exec_read_eq p a s, rfl, exec_read_withResponses p _ _ _, rfl, exec_read16_eq p a s⟩

end Sys2Proof.Machine
end

section
/-! The write path by its cases (R171 to R182): what `WRITE` and the case's own instruction leave at an address of the case,
as a sequence of stores and port calls. -/

namespace Sys2Proof.Machine

/-! ## Stores and port calls before the response -/

/-- The whole change that an operation has made before its response is given: `Effect` without the response. -/
structure Leaves (s u : State) (bytes : List (Addr × Byte)) (events : List PortEvent) : Prop where
  stored : ∀ b ∈ bytes, byteAt u b.1 = b.2
  others : ∀ x, (∀ b ∈ bytes, x ≠ b.1) → byteAt u x = byteAt s x
  trace : u.trace = s.trace ++ events
  responses : u.responses = s.responses
  inputs : sameInputs s u

theorem leaves_refl (s : State) : Leaves s s [] [] where
  stored _ hb := absurd hb List.not_mem_nil
  others _ _ := rfl
  trace := (List.append_nil _).symm
  responses := rfl
  inputs := ⟨rfl, rfl, rfl⟩

/-- A byte stored at an address not stored before is one more byte. -/
theorem Leaves.putByte {s u : State} {bytes : List (Addr × Byte)} {events : List PortEvent}
    (h : Leaves s u bytes events) {a : Addr} (ha : ∀ b ∈ bytes, b.1 ≠ a) (d : Byte) :
    Leaves s (putByte u a d) (bytes ++ [(a, d)]) events where
  stored b hb := by
    rcases List.mem_append.mp hb with hb | hb
    · rw [byteAt_putByte_other _ _ (ha b hb), h.stored b hb]
    · obtain rfl := List.mem_singleton.mp hb
      exact byteAt_putByte_self u a d
  others x hx := by
    have hxa : x ≠ a := hx (a, d) (by simp)
    rw [byteAt_putByte_other _ _ hxa, h.others x fun b hb => hx b (by simp [hb])]
  trace := h.trace
  responses := h.responses
  inputs := h.inputs

/-- Port calls made after the stores are appended, and change no byte. -/
theorem Leaves.calls {s u : State} {bytes : List (Addr × Byte)} (h : Leaves s u bytes []) (events : List PortEvent) :
    Leaves s { u with trace := s.trace ++ events } bytes events where
  stored := h.stored
  others := h.others
  trace := rfl
  responses := h.responses
  inputs := h.inputs

theorem leaves_putByte (s : State) (a : Addr) (d : Byte) : Leaves s (putByte s a d) [(a, d)] [] :=
  (leaves_refl s).putByte (fun _ hb => absurd hb List.not_mem_nil) d

/-- The same byte stored at two addresses. -/
theorem leaves_putByte_pair (s : State) {a m : Addr} (hm : m ≠ a) (d : Byte) :
    Leaves s (putByte (putByte s a d) m d) [(a, d), (m, d)] [] :=
  (leaves_putByte s a d).putByte (List.forall_mem_singleton.mpr hm.symm) d

theorem leaves_callWrite (s : State) (e : PortEvent) : Leaves s (callWrite e s) [] [e] := (leaves_refl s).calls [e]

/-- The responses given so far play no part in the bytes. -/
theorem byteAt_withResponses (s : State) (r : List Response) (x : Addr) :
    byteAt { s with responses := r } x = byteAt s x := rfl

/-- The responses given so far play no part in a store. -/
theorem putByte_withResponses (s : State) (a : Addr) (d : Byte) (r : List Response) :
    putByte { s with responses := r } a d = { putByte s a d with responses := r } := rfl

/-- The empty response added to what an operation leaves is its whole effect. -/
theorem Leaves.effect {s u : State} {bytes : List (Addr × Byte)} {events : List PortEvent}
    (h : Leaves s u bytes events) :
    Effect s { u with responses := u.responses ++ [.none] } bytes events .none where
  stored := h.stored
  others := h.others
  trace := h.trace
  responses := congrArg (· ++ [_]) h.responses
  inputs := h.inputs

/-- `WRITE` and the case that holds the address both end with what the case leaves (R102). -/
theorem exec_eq_performWrite {c : WriteCase} {a : Addr} (hc : writeCaseAddr c a = true) (p : Port) (d : Byte)
    (s : State) :
    ∀ i ∈ [Instr.write p a d, writeCaseInstr a d c], exec i s = respondNone (performWrite a d s c) := by
  have hcase : exec (writeCaseInstr a d c) s = respondNone (performWrite a d s c) := by cases c <;> rfl
  exact List.forall_mem_cons.mpr ⟨(exec_write_of_case hc p d s).trans hcase, List.forall_mem_singleton.mpr hcase⟩

/-- At an address of a case, `WRITE` and the case complete with what the case leaves. -/
theorem completes_of_writeCase {c : WriteCase} {a : Addr} (hc : writeCaseAddr c a = true) {d : Byte} {s : State}
    {bytes : List (Addr × Byte)} {events : List PortEvent} (h : Leaves s (performWrite a d s c) bytes events)
    (p : Port) : ∀ i ∈ [Instr.write p a d, writeCaseInstr a d c], Completes i s bytes events .none := fun i hi =>
  ⟨_, exec_eq_performWrite hc p d s i hi, h.effect⟩

/-! ## Work and echo RAM -/

theorem echoOf_ne_self (a : Addr) : echoOf a ≠ a := by
  simp only [echoOf, echoOffset]
  bv_omega

theorem workOf_ne_self (a : Addr) : workOf a ≠ a := by
  simp only [workOf, echoOffset]
  bv_omega

/-- Up to 0xDDFF a work-RAM write stores the byte and its echo (R172). -/
theorem leaves_writeWram_of_le {a : Addr} (h : a.toNat ≤ echoSrcHi.toNat) (d : Byte) (s : State) :
    Leaves s (writeWram a d s) [(a, d), (echoOf a, d)] [] := by
  rw [writeWram, if_pos h]
  exact leaves_putByte_pair s (echoOf_ne_self a) d

/-- Past 0xDDFF a work-RAM write stores the one byte (R172). -/
theorem leaves_writeWram_of_gt {a : Addr} (h : echoSrcHi.toNat < a.toNat) (d : Byte) (s : State) :
    Leaves s (writeWram a d s) [(a, d)] [] := by
  rw [writeWram, if_neg (Nat.not_le.mpr h)]
  exact leaves_putByte s a d

/-- Settles O39. Work RAM ends at 0xDFFF and its mirrored part at 0xDDFF, where the case decides on the echo. -/
theorem workRamWrite : Obligations.WorkRamWrite := by
  unfold Obligations.WorkRamWrite
  intro p a d s i hi
  have wram : 0xC000 ≤ a.toNat → a.toNat ≤ 0xDFFF → writeCaseAddr .wram a = true := fun hlo hhi =>
    inRange_iff.mpr ⟨hlo, hhi⟩
  constructor
  · rintro ⟨hlo, hhi⟩
    exact completes_of_writeCase (wram hlo (by omega)) (leaves_writeWram_of_le hhi d s) p i hi
  · rintro ⟨hlo, hhi⟩
    exact completes_of_writeCase (wram (by omega) hhi) (leaves_writeWram_of_gt hlo d s) p i hi

/-- Settles O40. Every echo address is stored with the work-RAM address below it. -/
theorem echoRamWrite : Obligations.EchoRamWrite := by
  unfold Obligations.EchoRamWrite
  intro p a d s ha
  exact completes_of_writeCase (c := .echo) (isEchoAddr_iff.mpr ha) (leaves_putByte_pair s (workOf_ne_self a) d) p

/-! ## The DMA copy -/

/-- The DMA write stores the register, and then makes one call per index, with the bytes of any state that reads as the
stores left it (R181). -/
theorem leaves_writeDma (d : Byte) (s : State) {t : State} (ht : ∀ x, byteAt t x = byteAt (writeDma d s) x) :
    Leaves s (writeDma d s) [(dmaAddr, d)]
      ((List.range dmaLen).map fun k => .oamWr (offsetAddr dmaDst k) (byteAt t (offsetAddr (dmaSource d) k))) := by
  simp only [ht, byteAt_writeDma]
  rw [writeDma_eq]
  exact (leaves_putByte s dmaAddr d).calls _

/-- Settles O47. The response changes no byte, so the bytes copied are those of the state that the instruction answers. -/
theorem dmaWrite : Obligations.DmaWrite := by
  unfold Obligations.DmaWrite
  intro p d s i hi
  have hexec := exec_eq_performWrite (c := .dma) (a := dmaAddr) rfl p d s i hi
  exact ⟨_, hexec, (leaves_writeDma d s (byteAt_withResponses _ _)).effect⟩

/-! ## Port calls -/

/-- Settles O38. The case passes the address and the byte on as they are. -/
theorem cartridgeWrite : Obligations.CartridgeWrite := by
  unfold Obligations.CartridgeWrite
  intro p a d s ha
  exact completes_of_writeCase (c := .cart) ha (leaves_callWrite s _) p

/-- Settles O41. The call has no argument, so the data is not consulted. -/
theorem dividerWrite : Obligations.DividerWrite := by
  unfold Obligations.DividerWrite
  intro p d s
  exact completes_of_writeCase (c := .div) (a := divAddr) rfl (leaves_callWrite s _) p

/-- Settles O46. The two video cases are one port call each, at their own addresses. -/
theorem videoWrite : Obligations.VideoWrite := by
  unfold Obligations.VideoWrite
  intro p a d s
  exact ⟨fun ha => completes_of_writeCase (c := .vram) ha (leaves_callWrite s _) p,
    fun ha => completes_of_writeCase (c := .oam) ha (leaves_callWrite s _) p⟩

/-! ## Registers and plain addresses -/

/-- The display was on and stays on exactly when bit 7 of LCDC is set before and after (R30, R175). -/
theorem staysOn_iff {old new : Byte} : staysOn old new = true ↔ old.getLsbD 7 = true ∧ new.getLsbD 7 = true := by
  simp [staysOn, displayOn]

/-- The LCD-off reset as two stores: the low bits of STAT are cleared from the byte held before (R175). -/
theorem lcdOffReset_eq (s : State) :
    lcdOffReset s = putByte (putByte s lyAddr 0x00#8) statAddr (byteAt s statAddr &&& statWritable) := by
  rw [lcdOffReset, byteAt_putByte_other _ _ (by decide)]

theorem leaves_writeLcdc_of_staysOn {d : Byte} {s : State} (h : staysOn (byteAt s lcdcAddr) d = true) :
    Leaves s (writeLcdc d s) [(lcdcAddr, d)] [] := by
  rw [writeLcdc, if_pos h]
  exact leaves_putByte s lcdcAddr d

/-- Unless the display stays on, the LCDC write stores LY and STAT too (R175). -/
theorem leaves_writeLcdc_of_not_staysOn {d : Byte} {s : State} (h : ¬ staysOn (byteAt s lcdcAddr) d = true) :
    Leaves s (writeLcdc d s)
      [(lcdcAddr, d), (lyAddr, 0x00#8), (statAddr, byteAt s statAddr &&& statWritable)] [] := by
  rw [writeLcdc, if_neg h, lcdOffReset_eq, byteAt_putByte_other _ _ (by decide)]
  have hlcdc := leaves_putByte s lcdcAddr d
  have hly := hlcdc.putByte (a := lyAddr) (by simp [lcdcAddr, lyAddr]) 0x00#8
  exact hly.putByte (by simp [lcdcAddr, lyAddr, statAddr]) _

/-- Settles O42. The case decides on the reset by bit 7 of the old and of the new byte. -/
theorem lcdcWrite : Obligations.LcdcWrite := by
  unfold Obligations.LcdcWrite
  intro p d s i hi
  have lcdc : writeCaseAddr .lcdc lcdcAddr = true := rfl
  constructor
  · intro hon
    exact completes_of_writeCase lcdc (leaves_writeLcdc_of_staysOn (staysOn_iff.mpr hon)) p i hi
  · intro hoff
    exact completes_of_writeCase lcdc (leaves_writeLcdc_of_not_staysOn (mt staysOn_iff.mp hoff)) p i hi

/-- Settles O43. The case leaves the whole state. -/
theorem lyWrite : Obligations.LyWrite := by
  unfold Obligations.LyWrite
  intro p d s
  exact completes_of_writeCase (c := .ly) (a := lyAddr) rfl (leaves_refl s) p

/-- Settles O44. The bits kept are those outside the mask of the writable ones. -/
theorem statWrite : Obligations.StatWrite := by
  unfold Obligations.StatWrite
  intro p d s
  exact completes_of_writeCase (c := .stat) (a := statAddr) rfl (leaves_putByte s statAddr _) p

/-- Settles O45. As for STAT, with the mask of the high four bits. -/
theorem joypadWrite : Obligations.JoypadWrite := by
  unfold Obligations.JoypadWrite
  intro p d s
  exact completes_of_writeCase (c := .joyp) (a := joypAddr) rfl (leaves_putByte s joypAddr _) p

/-- Settles O48. The case stores its byte unmasked, IF and IE among its addresses. -/
theorem plainWrite : Obligations.PlainWrite := by
  unfold Obligations.PlainWrite
  intro p a d s ha
  exact completes_of_writeCase (c := .plain) ha (leaves_putByte s a d) p

/-- A force packed for the CPU-facing port is rejected (R98 (d)). -/
theorem decodeWord_force_cpu (a : Addr) (d : Byte) :
    decodeWord (packWord .cpu 0x4#4 (packRest a (d.setWidth 16) 0#3 false)) = .error .forceOnCpuPort := by
  simp [decodeWord, decodeForce]

/-- Settles O50. The force is one raw store, and its word on the CPU-facing port does not get past the decoder. -/
theorem forceWriteIsRaw : Obligations.ForceWriteIsRaw := by
  unfold Obligations.ForceWriteIsRaw
  intro a d s rest
  refine ⟨completes_forceWrite s a d, ?_⟩
  rw [step_of_request rfl, decode, decodeWord_force_cpu]
  rfl

end Sys2Proof.Machine
end

section
/-! `WRITE16` as two writes (R185), and why their order never shows in the store: neighbouring addresses store disjoint bytes,
but for LCDC and STAT, whose writes to STAT commute. -/

namespace Sys2Proof.Machine

/-! ## Two writes -/

/-- The responses given so far play no part in a write. -/
theorem busWrite_withResponses (a : Addr) (d : Byte) (s : State) (r : List Response) :
    busWrite a d { s with responses := r } = { busWrite a d s with responses := r } := by
  have hc := writeCaseAddr_writeCaseOf a
  rw [busWrite_of_case hc, busWrite_of_case hc]
  cases writeCaseOf a
  case wram =>
    simp only [performWrite, writeWram, putByte_withResponses]
    split_ifs <;> rfl
  case lcdc =>
    simp only [performWrite, writeLcdc]
    rw [byteAt_withResponses]
    split <;> rfl
  case dma =>
    simp only [performWrite, writeDma_eq]
    rfl
  case cart | echo | div | ly | stat | joyp | vram | oam | plain => rfl

/-- `WRITE` answers next with the state that `write` leaves, and the one empty response. -/
theorem exec_write_eq (p : Port) (a : Addr) (d : Byte) (s : State) :
    exec (.write p a d) s = .next { busWrite a d s with responses := s.responses ++ [.none] } := by
  obtain ⟨-, -, -, hresp, -, -⟩ := busWrite_shape a d s
  calc exec (.write p a d) s = respond .none (busWrite a d s) := rfl
    _ = _ := by rw [respond_eq, hresp]

/-- The responses given so far play no part in what a `WRITE` does. -/
theorem exec_write_withResponses (p : Port) (a : Addr) (d : Byte) (s : State) (r : List Response) :
    exec (.write p a d) { s with responses := r } =
      .next { busWrite a d s with responses := r ++ [.none] } := by
  rw [exec_write_eq, busWrite_withResponses]

/-- `WRITE16` leaves what two writes leave, with one empty response (R185). -/
theorem exec_write16_eq (p : Port) (a : Addr) (w : Half) (s : State) :
    exec (.write16 p a w) s = .next { busWrite16 a w s with responses := s.responses ++ [.none] } := by
  obtain ⟨-, -, -, hresp, -, -⟩ := busWrite16_shape a w s
  calc exec (.write16 p a w) s = respond .none (busWrite16 a w s) := rfl
    _ = _ := by rw [respond_eq, hresp]

/-- Settles O49. The response that the first `WRITE` adds plays no part in the second. -/
theorem write16IsTwoWrites : Obligations.Write16IsTwoWrites := by
  unfold Obligations.Write16IsTwoWrites
  intro p a w s
  exact ⟨_, _, exec_write_eq p a _ s, exec_write_withResponses p _ _ _ _, exec_write16_eq p a w s⟩

/-! ## The bytes that two neighbouring writes store -/

/-- A byte that a write may store lies at the address written, in the other half of the echo pairs, or is LY or STAT
under LCDC: `storesAt` in numbers. -/
theorem storesAt_toNat {b x : Addr} (h : storesAt b x) :
    x.toNat = b.toNat ∨
      (b.toNat ≤ 0xFDFF ∧ x.toNat ≤ 0xFDFF ∧ (x.toNat = b.toNat + 0x2000 ∨ x.toNat + 0x2000 = b.toNat)) ∨
      (b.toNat = 0xFF40 ∧ (x.toNat = 0xFF44 ∨ x.toNat = 0xFF41)) := by
  rcases h with ⟨rfl, -⟩ | ⟨hpair, rfl⟩ | ⟨rfl, hx⟩
  · exact .inl rfl
  · have hbounds := mirrorOf_bounds hpair
    rcases hpair with hw | he
    · have hm := isMirroredWork_iff.mp hw
      have hoff := echoOf_toNat hw
      rw [mirrorOf_of_work hw] at hbounds ⊢
      omega
    · have hm := isEchoAddr_iff.mp he
      have hoff := workOf_toNat he
      rw [mirrorOf_of_echo he] at hbounds ⊢
      omega
  · rcases hx with rfl | rfl <;> decide

/-- The one byte that writes to two neighbouring addresses may both store is STAT, by LCDC and STAT (R175, R177). -/
theorem lcdc_stat_of_storesAt_both {a x : Addr} (ha : storesAt a x) (hn : storesAt (nextAddr a) x) :
    a = lcdcAddr ∧ x = statAddr := by
  have h1 := storesAt_toNat ha
  have h2 := storesAt_toNat hn
  have hnext : (nextAddr a).toNat = (a.toNat + 1) % 65536 := by simp [nextAddr]
  have hlt := a.isLt
  rw [hnext] at h2
  rw [addr_eq_iff, addr_eq_iff]
  simp only [lcdcAddr, statAddr, BitVec.toNat_ofNat]
  omega

/-! ## A write on the bytes that another write left -/

/-- The STAT byte after an LCDC write (R175). -/
theorem byteAt_writeLcdc_stat (d : Byte) (s : State) :
    byteAt (writeLcdc d s) statAddr =
      if staysOn (byteAt s lcdcAddr) d then byteAt s statAddr else byteAt s statAddr &&& statWritable := by
  rw [writeLcdc]
  split
  · exact byteAt_putByte_other _ _ (by decide)
  · rw [byteAt_lcdOffReset_stat, byteAt_putByte_other _ _ (by decide)]

/-- The LY byte after an LCDC write (R175). -/
theorem byteAt_writeLcdc_ly (d : Byte) (s : State) :
    byteAt (writeLcdc d s) lyAddr = if staysOn (byteAt s lcdcAddr) d then byteAt s lyAddr else 0x00#8 := by
  rw [writeLcdc]
  split
  · exact byteAt_putByte_other _ _ (by decide)
  · exact byteAt_lcdOffReset_ly _

/-- What a write leaves at `x` depends on the byte held there, and for a write of LCDC on the byte of LCDC. -/
theorem byteAt_busWrite_congr {a x : Addr} {s u : State} (hx : byteAt u x = byteAt s x)
    (hlcdc : a = lcdcAddr → byteAt u lcdcAddr = byteAt s lcdcAddr) (d : Byte) :
    byteAt (busWrite a d u) x = byteAt (busWrite a d s) x := by
  by_cases h : storesAt a x
  · rcases h with ⟨rfl, -⟩ | ⟨hpair, rfl⟩ | ⟨rfl, hreset⟩
    · have hself := byteAt_busWrite_self (writeCaseAddr_writeCaseOf x) d
      rw [hself, hself, hx]
    · rw [byteAt_busWrite_mirrorOf hpair, byteAt_busWrite_mirrorOf hpair]
    · have hcase := busWrite_of_case (c := .lcdc) (a := lcdcAddr) rfl d
      simp only [hcase, performWrite]
      rcases hreset with rfl | rfl
      · rw [byteAt_writeLcdc_ly, byteAt_writeLcdc_ly, hlcdc rfl, hx]
      · rw [byteAt_writeLcdc_stat, byteAt_writeLcdc_stat, hlcdc rfl, hx]
  · rw [byteAt_busWrite_of_not_storesAt h, byteAt_busWrite_of_not_storesAt h, hx]

/-- Only a write of LCDC stores the byte of LCDC. -/
theorem byteAt_busWrite_lcdc {b : Addr} (hb : b ≠ lcdcAddr) (d : Byte) (s : State) :
    byteAt (busWrite b d s) lcdcAddr = byteAt s lcdcAddr :=
  byteAt_busWrite_of_not_storesAt (fun h => hb (eq_of_storesAt h (by decide) fun e => absurd e hb).1.symm) d s

/-- Two writes to different addresses leave the same byte in either order where one of them does not store it. -/
theorem byteAt_busWrite_comm {a b x : Addr} (hab : a ≠ b) (hb : ¬ storesAt b x) (d e : Byte) (s : State) :
    byteAt (busWrite b e (busWrite a d s)) x = byteAt (busWrite a d (busWrite b e s)) x := by
  have hlcdc : a = lcdcAddr → byteAt (busWrite b e s) lcdcAddr = byteAt s lcdcAddr := fun ha =>
    byteAt_busWrite_lcdc (fun hbl => hab (ha.trans hbl.symm)) e s
  calc byteAt (busWrite b e (busWrite a d s)) x
      = byteAt (busWrite a d s) x := byteAt_busWrite_of_not_storesAt hb e _
    _ = byteAt (busWrite a d (busWrite b e s)) x :=
        (byteAt_busWrite_congr (byteAt_busWrite_of_not_storesAt hb e s) hlcdc d).symm

/-- Clearing the bits outside the mask before a partial write or after it gives the same byte. -/
theorem mergeBits_and_mask (mask d old : Byte) : mergeBits mask d (old &&& mask) = mergeBits mask d old &&& mask := by
  ext j hj
  simp only [mergeBits, BitVec.getElem_or, BitVec.getElem_and, BitVec.getElem_not]
  cases mask[j] <;> simp

/-- A write of LCDC and a write of STAT leave the same STAT in either order: one clears bits 2:0 at most, the other
replaces bits 7:3 (R175, R177). -/
theorem byteAt_stat_comm (lcdc stat : Byte) (s : State) :
    byteAt (busWrite statAddr stat (busWrite lcdcAddr lcdc s)) statAddr =
      byteAt (busWrite lcdcAddr lcdc (busWrite statAddr stat s)) statAddr := by
  have hstat : ∀ u, byteAt (busWrite statAddr stat u) statAddr = mergeBits statWritable stat (byteAt u statAddr) :=
    byteAt_busWrite_self (c := .stat) rfl stat
  have hlcdc := busWrite_of_case (c := .lcdc) (a := lcdcAddr) rfl lcdc
  simp only [hstat, hlcdc, performWrite, byteAt_writeLcdc_stat, byteAt_busWrite_lcdc (b := statAddr) (by decide)]
  split
  · rfl
  · exact mergeBits_and_mask statWritable stat _

/-- Neighbouring writes leave every byte the same in either order. -/
theorem byteAt_busWrite_next_comm (a : Addr) (lo hi : Byte) (s : State) (x : Addr) :
    byteAt (busWrite (nextAddr a) hi (busWrite a lo s)) x =
      byteAt (busWrite a lo (busWrite (nextAddr a) hi s)) x := by
  have hne : a ≠ nextAddr a := by
    simp only [nextAddr]
    bv_omega
  by_cases hn : storesAt (nextAddr a) x
  · by_cases ha : storesAt a x
    · obtain ⟨rfl, rfl⟩ := lcdc_stat_of_storesAt_both ha hn
      exact byteAt_stat_comm lo hi s
    · exact (byteAt_busWrite_comm hne.symm ha hi lo s).symm
  · exact byteAt_busWrite_comm hne hn lo hi s

/-- Settles O28. The responses play no part in the bytes, and neighbouring writes commute on every byte. -/
theorem byteOrderOfWrite16Invisible : Obligations.ByteOrderOfWrite16Invisible := by
  unfold Obligations.ByteOrderOfWrite16Invisible
  intro p a lo hi s
  exact ⟨_, _, _, _, exec_write_eq p a lo s, exec_write_withResponses p _ hi _ _, exec_write_eq p _ hi s,
    exec_write_withResponses p a lo _ _, byteAt_busWrite_next_comm a lo hi s⟩

end Sys2Proof.Machine
end

section
/-! The interrupt register view (R221 to R224): the block shows IE and IF with bits 7:5 set and stores them as written, so each
operation of the view changes or tests one bit. -/

namespace Sys2Proof.Machine

/-! ## One bit of a register's byte -/

/-- Of the mask of a kind, the bit at the kind's index is set, and no other (R221). -/
theorem getLsbD_irqMask (k : Kind) (j : Nat) : (irqMask k).getLsbD j = decide (j = kindIndex k) := by
  have hk : kindIndex k < 5 := kindCode_toNat_lt k
  rw [irqMask, BitVec.getLsbD_shiftLeft, BitVec.getLsbD_one, Bool.eq_iff_iff]
  simp only [Bool.and_eq_true, Bool.not_eq_true', decide_eq_true_iff, decide_eq_false_iff_not]
  omega

/-- Setting or clearing a kind's bit keeps the other bits (R221). -/
theorem getLsbD_withIrqBit (b : Byte) (k : Kind) (v : Bool) {j : Nat} (hj : j < 8) :
    (withIrqBit b k v).getLsbD j = if j = kindIndex k then v else b.getLsbD j := by
  cases v
  case true =>
    rw [withIrqBit, if_pos rfl, BitVec.getLsbD_or, getLsbD_irqMask]
    by_cases h : j = kindIndex k <;> simp [h]
  case false =>
    rw [withIrqBit, if_neg Bool.false_ne_true, BitVec.getLsbD_and, BitVec.getLsbD_not, getLsbD_irqMask]
    by_cases h : j = kindIndex k <;> simp [h, hj]

/-- An interrupt register is shown with bits 7:5 set and the stored bits below them (R142). -/
theorem getLsbD_irqView (b : Byte) {j : Nat} (hj : j < 8) :
    (irqView b).getLsbD j = if 5 ≤ j then true else b.getLsbD j := by
  have hones : ∀ i < 8, irqForcedOnes.getLsbD i = decide (5 ≤ i) := by decide
  rw [irqView, BitVec.getLsbD_or, hones j hj]
  by_cases h : 5 ≤ j <;> simp [h]

/-! ## The two registers -/

/-- Both registers are read with bits 7:5 set, with no change of state (R142). -/
theorem busRead_irq {reg : Addr} (hreg : reg = ieAddr ∨ reg = ifAddr) (s : State) :
    busRead reg s = (irqView (byteAt s reg), s) := by
  have hc : readCaseAddr .irq reg = true := by rcases hreg with rfl | rfl <;> rfl
  exact busRead_of_case hc s

/-- Both registers are written whole (R182). -/
theorem busWrite_irq {reg : Addr} (hreg : reg = ieAddr ∨ reg = ifAddr) (d : Byte) (s : State) :
    busWrite reg d s = putByte s reg d := by
  have hc : writeCaseAddr .plain reg = true := by rcases hreg with rfl | rfl <;> rfl
  exact busWrite_of_case hc d s

/-- The rewrite of a register is one store: of its byte with bits 7:5 set and the kind's bit changed (R221, R222). -/
theorem rewriteIrq_eq {reg : Addr} (hreg : reg = ieAddr ∨ reg = ifAddr) (k : Kind) (v : Bool) (s : State) :
    rewriteIrq reg k v s = putByte s reg (withIrqBit (irqView (byteAt s reg)) k v) := by
  rw [rewriteIrq, busRead_irq hreg, busWrite_irq hreg]

/-- An instruction that rewrites a register stores that one byte, in which only the kind's bit and bits 7:5 may differ. -/
theorem completes_of_rewriteIrq {i : Instr} {s : State} {reg : Addr} {k : Kind} {v : Bool}
    (hreg : reg = ieAddr ∨ reg = ifAddr) (h : exec i s = respondNone (rewriteIrq reg k v s)) :
    ∃ n : Byte, Completes i s [(reg, n)] [] .none ∧
      ∀ j, j < 8 → n.getLsbD j = if j = kindIndex k then v else if 5 ≤ j then true else (byteAt s reg).getLsbD j := by
  rw [rewriteIrq_eq hreg] at h
  refine ⟨_, ⟨_, h, (leaves_putByte s reg _).effect⟩, fun j hj => ?_⟩
  rw [getLsbD_withIrqBit _ k v hj, getLsbD_irqView _ hj]

/-- `interrupt_pending` answers the kind's bit of both registers as stored, and leaves the state (R223). -/
theorem readPending_eq (k : Kind) (s : State) :
    readPending k s =
      ((byteAt s ieAddr).getLsbD (kindIndex k) && (byteAt s ifAddr).getLsbD (kindIndex k), s) := by
  obtain ⟨hbits, hstate⟩ := readPending_spec k s
  refine Prod.ext ?_ hstate
  rw [Bool.eq_iff_iff, hbits, Bool.and_eq_true]
  rfl

/-- At construction IE is zero, so no kind is pending (R270, R275). -/
theorem readPending_reset (k : Kind) : readPending k State.reset = (false, State.reset) := by
  have hie : byteAt State.reset ieAddr = 0x00#8 := by decide
  rw [readPending_eq, hie, BitVec.getLsbD_zero, Bool.false_and]

/-! ## Words whose kind names none -/

/-- A view's word with a kind 5..7 is refused (R98 (b), R241). -/
theorem step_of_badKind (p : Port) {op : BitVec 4} (hop : op = 0x5#4 ∨ op = 0x6#4 ∨ op = 0x7#4) {c : BitVec 3}
    (hc : 5 ≤ c.toNat) (v : Bool) (s : State) (rest : List Request) :
    step { s with requests := .word (packWord p op (packRest 0#16 0#16 c v)) :: rest } = .refused .badKind := by
  have hd : decodeWord (packWord p op (packRest 0#16 0#16 c v)) = .error .badKind := by
    rcases hop with rfl | rfl | rfl <;> simp [decodeWord, withKind, kindOfCode_eq_none.mpr hc]
  rw [step_of_request rfl, decode, hd]
  rfl

/-! ## The statements -/

/-- Settles O51. The view's rewrite at IE. -/
theorem setEnableWritesOneBit : Obligations.SetEnableWritesOneBit := by
  unfold Obligations.SetEnableWritesOneBit
  exact ⟨rfl, fun p k v s => completes_of_rewriteIrq (.inl rfl) rfl,
    fun p c v s rest hc => step_of_badKind p (.inl rfl) hc v s rest⟩

/-- Settles O52. The view's rewrite at IF. -/
theorem setFlagWritesOneBit : Obligations.SetFlagWritesOneBit := by
  unfold Obligations.SetFlagWritesOneBit
  exact ⟨fun p k v s => completes_of_rewriteIrq (.inr rfl) rfl,
    fun p c v s rest hc => step_of_badKind p (.inr (.inl rfl)) hc v s rest⟩

/-- `INT_PENDING` only responds, with what `interrupt_pending` answers (R223). -/
theorem completes_intPending {k : Kind} {s : State} {b : Bool} (h : readPending k s = (b, s)) (p : Port) :
    Completes (.intPending p k) s [] [] (.flag b) :=
  completes_of_respond <|
    calc exec (.intPending p k) s = respond (.flag (readPending k s).1) (readPending k s).2 := rfl
      _ = respond (.flag b) s := by rw [h]

/-- Settles O53. The forced bits 7:5 are no kind's, so the bits tested are the stored ones. -/
theorem intPendingIsTheAnd : Obligations.IntPendingIsTheAnd := by
  unfold Obligations.IntPendingIsTheAnd
  exact ⟨fun p k s => completes_intPending (readPending_eq k s) p,
    fun p k => completes_intPending (readPending_reset k) p,
    fun p c s rest hc => step_of_badKind p (.inr (.inr rfl)) hc false s rest⟩

/-- An instruction that rewrites a register does what a `READ` and a `WRITE` of the changed byte do, but for the response
(R224). -/
theorem rewriteIrq_is_read_write {i : Instr} {s : State} {reg : Addr} {k : Kind} {v : Bool}
    (h : exec i s = respondNone (rewriteIrq reg k v s)) (p : Port) :
    ∃ t1 t2 b, exec (.read p reg) s = .next t1 ∧ t1.responses = s.responses ++ [.byte b] ∧
      exec (.write p reg (withIrqBit b k v)) t1 = .next t2 ∧
      exec i s = .next { t2 with responses := s.responses ++ [.none] } := by
  refine ⟨_, _, _, exec_read_eq p reg s, rfl, exec_write_withResponses p reg _ _ _, ?_⟩
  have hresp : (rewriteIrq reg k v s).responses = s.responses := by
    obtain ⟨-, -, -, hwrite, -, -⟩ := busWrite_shape reg (withIrqBit (busRead reg s).1 k v) (busRead reg s).2
    exact hwrite.trans (busRead_responses reg s)
  rw [h, respondNone, respond_eq, hresp]
  rfl

/-- `INT_PENDING` leaves what the reads of IE and then IF leave, and answers the kind's bit of their conjunction (R223). -/
theorem exec_intPending_eq (p : Port) (k : Kind) (s : State) :
    let e := busRead ieAddr s
    let f := busRead ifAddr e.2
    exec (.intPending p k) s = .next { f.2 with responses := s.responses ++ [.flag (irqBit (e.1 &&& f.1) k)] } := by
  intro e f
  have hresp : f.2.responses = s.responses := by rw [busRead_responses, busRead_responses]
  calc exec (.intPending p k) s = respond (.flag (irqBit (e.1 &&& f.1) k)) f.2 := rfl
    _ = _ := by rw [respond_eq, hresp]

/-- A byte's number, cast back, is the byte. -/
theorem natCast_toNat_byte (b : Byte) : ((b.toNat : Nat) : Byte) = b := by
  rw [BitVec.natCast_eq_ofNat, BitVec.ofNat_toNat, BitVec.setWidth_eq]

/-- The bit test of two bytes' conjunction, taken on their numbers (R223). -/
theorem irqBit_and_eq_on_toNat (e f : Byte) (k : Kind) :
    irqBit (e &&& f) k = (((e.toNat &&& f.toNat) >>> kindIndex k : Nat) &&& 1#8 == 1#8) := by
  rw [irqBit, ← BitVec.toNat_and, ← BitVec.toNat_ushiftRight, natCast_toNat_byte]

/-- Settles O54. The responses of the separate requests play no part in what the next one does. In the last clause the two
bytes read are named by their numbers, which the statement casts to bytes. -/
theorem viewIsReadsAndWrites : Obligations.ViewIsReadsAndWrites := by
  unfold Obligations.ViewIsReadsAndWrites
  intro p k v s
  constructor
  · exact List.forall_mem_cons.mpr
      ⟨rewriteIrq_is_read_write rfl p, List.forall_mem_singleton.mpr (rewriteIrq_is_read_write rfl p)⟩
  · refine ⟨_, _, (busRead ieAddr s).1.toNat, (busRead ifAddr (busRead ieAddr s).2).1.toNat, exec_read_eq p ieAddr s, ?_,
      exec_read_withResponses p ifAddr _ _, ?_, ?_⟩
    · rw [natCast_toNat_byte]
    · rw [natCast_toNat_byte]
    · rw [← irqBit_and_eq_on_toNat]
      exact exec_intPending_eq p k s

/-- Settles O55. Each register keeps the bit set in it, as the two bytes are at different addresses. -/
theorem interruptComposition : Obligations.InterruptComposition := by
  unfold Obligations.InterruptComposition
  intro p k ve vf s
  have hk : kindIndex k < 8 := (kindCode_toNat_lt k).trans (by decide)
  obtain ⟨-, enable, -⟩ := setEnableWritesOneBit
  obtain ⟨flag, -⟩ := setFlagWritesOneBit
  obtain ⟨pending, -⟩ := intPendingIsTheAnd
  obtain ⟨n, ⟨t, ht, hst⟩, hn⟩ := enable p k ve s
  obtain ⟨m, ⟨u, hu, htu⟩, hm⟩ := flag p k vf t
  obtain ⟨x, hx, hux⟩ := pending p k u
  have hie : byteAt u 0xFFFF#16 = n :=
    calc byteAt u 0xFFFF#16 = byteAt t 0xFFFF#16 := htu.others _ (by simp)
      _ = n := hst.stored (0xFFFF#16, n) (by simp)
  have hif : byteAt u 0xFF0F#16 = m := htu.stored (0xFF0F#16, m) (by simp)
  refine ⟨t, u, x, ht, hu, hx, ?_⟩
  rw [hux.responses, hie, hif, hn _ hk, hm _ hk, if_pos rfl, if_pos rfl]

end Sys2Proof.Machine
end

section
/-! Exceptions (R240 to R247): the reason of a refusal, the ports, the completion of what is accepted, and a requester's
own priority. -/

namespace Sys2Proof.Machine

/-! ## The reason of a rejection -/

theorem unusedZero_eq_error {ok : Bool} {i : Instr} {e : Reject} (h : unusedZero ok i = .error e) :
    e = .nonZeroUnusedField ∧ ok ≠ true := by
  cases ok <;> simp_all [unusedZero]

/-- A view's word is rejected for its kind, or for an unused field (R98 (b), (c)). -/
theorem withKind_eq_error {w : RequestWord} {ok : Bool} {f : Kind → Instr} {e : Reject}
    (h : withKind w ok f = .error e) :
    (e = .badKind ∧ 5 ≤ (kindField w).toNat) ∨ (e = .nonZeroUnusedField ∧ ok ≠ true) := by
  unfold withKind at h
  split at h
  · exact .inr (unusedZero_eq_error h)
  · next hk =>
    cases h
    exact .inl ⟨rfl, kindOfCode_eq_none.mp hk⟩

/-- A force is rejected for an unused field, or for its port (R98 (c), (d)). -/
theorem decodeForce_eq_error {w : RequestWord} {e : Reject} (h : decodeForce w = .error e) :
    (e = .nonZeroUnusedField ∧ onlyAddrByte w ≠ true) ∨ (e = .forceOnCpuPort ∧ portField w = 0#1) := by
  unfold decodeForce at h
  split at h
  · cases hp : portOfBit (portField w) <;> simp only [hp] at h
    case privileged => cases h
    case cpu =>
      cases h
      exact .inr ⟨rfl, portOfBit_eq_cpu.mp hp⟩
  · next hz =>
    cases h
    exact .inl ⟨rfl, hz⟩

/-- The condition of R98 that a rejection names. -/
def rejectHolds (w : RequestWord) : Reject → Prop
  | .badKind => badKindWord w
  | .nonZeroUnusedField => unusedNonZeroWord w
  | .forceOnCpuPort => forceOnCpuWord w

theorem rejectHolds_of_unusedZero {w : RequestWord} {ok : Bool} {i : Instr} {e : Reject}
    (h : unusedZero ok i = .error e) (hrow : ok ≠ true → unusedNonZeroWord w) : rejectHolds w e := by
  obtain ⟨rfl, hz⟩ := unusedZero_eq_error h
  exact hrow hz

theorem rejectHolds_of_withKind {w : RequestWord} {ok : Bool} {f : Kind → Instr} {e : Reject}
    (h : withKind w ok f = .error e)
    (hop : (opField w).toNat = 5 ∨ (opField w).toNat = 6 ∨ (opField w).toNat = 7)
    (hrow : ok ≠ true → unusedNonZeroWord w) : rejectHolds w e := by
  rcases withKind_eq_error h with ⟨rfl, hk⟩ | ⟨rfl, hz⟩
  · exact ⟨hop, hk⟩
  · exact hrow hz

theorem rejectHolds_of_decodeForce {w : RequestWord} {e : Reject} (h : decodeForce w = .error e)
    (hop : (opField w).toNat = 4) (hrow : onlyAddrByte w ≠ true → unusedNonZeroWord w) : rejectHolds w e := by
  rcases decodeForce_eq_error h with ⟨rfl, hz⟩ | ⟨rfl, hp⟩
  · exact hrow hz
  · exact ⟨hop, hp⟩

section UnusedFields

variable {w : RequestWord}

/-- `READ`, `READ16`, `CLASSIFY` use `addr` only (R92). -/
theorem unusedNonZero_of_not_onlyAddr
    (hop : (opField w).toNat = 0 ∨ (opField w).toNat = 2 ∨ (opField w).toNat = 8) (h : onlyAddr w ≠ true) :
    unusedNonZeroWord w := by
  rw [Ne, onlyAddr_iff, not_and_or, not_and_or] at h
  exact .inl ⟨hop, h⟩

/-- `WRITE` and `FORCE_WRITE` use `addr` and the low byte of `data` (R92). -/
theorem unusedNonZero_of_not_onlyAddrByte
    (hop : (opField w).toNat = 1 ∨ (opField w).toNat = 4) (h : onlyAddrByte w ≠ true) : unusedNonZeroWord w := by
  rw [Ne, onlyAddrByte_iff, not_and_or, not_and_or] at h
  exact .inr (.inl ⟨hop, h⟩)

/-- `WRITE16` uses `addr` and `data` (R92). -/
theorem unusedNonZero_of_not_onlyAddrHalf (hop : (opField w).toNat = 3) (h : onlyAddrHalf w ≠ true) :
    unusedNonZeroWord w := by
  rw [Ne, onlyAddrHalf_iff, not_and_or] at h
  exact .inr (.inr (.inl ⟨hop, h⟩))

/-- `SET_ENABLE` and `SET_FLAG` use `kind` and `val` (R92). -/
theorem unusedNonZero_of_not_onlyKindVal
    (hop : (opField w).toNat = 5 ∨ (opField w).toNat = 6) (h : onlyKindVal w ≠ true) : unusedNonZeroWord w := by
  rw [Ne, onlyKindVal_iff, not_and_or] at h
  exact .inr (.inr (.inr (.inl ⟨hop, h⟩)))

/-- `INT_PENDING` uses `kind` only (R92). -/
theorem unusedNonZero_of_not_onlyKind (hop : (opField w).toNat = 7) (h : onlyKind w ≠ true) :
    unusedNonZeroWord w := by
  rw [Ne, onlyKind_iff, not_and_or, not_and_or] at h
  exact .inr (.inr (.inr (.inr ⟨hop, h⟩)))

end UnusedFields

/-- The decoder rejects a word for a reason that holds of it: under each code, the checks of its row of R92. -/
theorem rejectHolds_of_decodeWord {w : RequestWord} {e : Reject} (h : decodeWord w = .error e) : rejectHolds w e := by
  unfold decodeWord at h
  dsimp only at h
  split_ifs at h with hop hop hop hop hop hop hop hop hop
  · exact rejectHolds_of_unusedZero h (unusedNonZero_of_not_onlyAddr (.inl hop))
  · exact rejectHolds_of_unusedZero h (unusedNonZero_of_not_onlyAddrByte (.inl hop))
  · exact rejectHolds_of_unusedZero h (unusedNonZero_of_not_onlyAddr (.inr (.inl hop)))
  · exact rejectHolds_of_unusedZero h (unusedNonZero_of_not_onlyAddrHalf hop)
  · exact rejectHolds_of_decodeForce h hop (unusedNonZero_of_not_onlyAddrByte (.inr hop))
  · exact rejectHolds_of_withKind h (.inl hop) (unusedNonZero_of_not_onlyKindVal (.inl hop))
  · exact rejectHolds_of_withKind h (.inr (.inl hop)) (unusedNonZero_of_not_onlyKindVal (.inr hop))
  · exact rejectHolds_of_withKind h (.inr (.inr hop)) (unusedNonZero_of_not_onlyKind hop)
  · exact rejectHolds_of_unusedZero h (unusedNonZero_of_not_onlyAddr (.inr (.inr hop)))

/-- A refused step names the reserved code of the word, or the decoder's reason for it (R241). -/
theorem step_refused_cases {s : State} {w : RequestWord} {rest : List Request} {r : Refusal}
    (hr : s.requests = .word w :: rest) (h : step s = .refused r) :
    (r = .reservedOp ∧ reservedOpWord w) ∨ ∃ e, r = refusalOf e ∧ rejectHolds w e := by
  rw [step_of_request hr, decode] at h
  cases hd : decodeWord w with
  | ok i =>
    simp only [hd] at h
    obtain ⟨p, op, bits, rfl⟩ := exec_refused_iff.mp ⟨r, h⟩
    rw [exec_reserved, Host.Outcome.refused.injEq] at h
    exact .inl ⟨h.symm, decodeWord_eq_reserved_iff.mp ⟨p, op, bits, hd⟩⟩
  | error e =>
    simp only [hd, Host.Outcome.refused.injEq] at h
    exact .inr ⟨e, h.symm, rejectHolds_of_decodeWord hd⟩

/-- Settles O9. The reserved codes refuse when performed; every other reason is the decoder's. -/
theorem refusalReasonHolds : Obligations.RefusalReasonHolds := by
  unfold Obligations.RefusalReasonHolds
  intro s w rest r hr h
  rcases step_refused_cases hr h with hop | ⟨e, rfl, he⟩
  · exact .inl hop
  · cases e with
    | badKind => exact .inr (.inl ⟨rfl, he⟩)
    | nonZeroUnusedField => exact .inr (.inr (.inl ⟨rfl, he⟩))
    | forceOnCpuPort => exact .inr (.inr (.inr ⟨rfl, he⟩))

/-! ## The ports -/

/-- The step on a well-formed instruction's own request performs it. -/
theorem step_of_encode {i : Instr} (hw : wellFormed i = true) (s : State) (rest : List Request) :
    step { s with requests := encode i :: rest } = exec i { s with requests := rest } := by
  rw [step_of_request rfl, decodeOfEncodeIsInstruction i hw]

/-- An operation that the port plays no part in steps alike on both ports (R247). -/
theorem step_ports_alike {f : Port → Instr} (hw : ∀ p, wellFormed (f p) = true)
    (hf : ∀ s, exec (f .cpu) s = exec (f .privileged) s) (s : State) (rest : List Request) :
    step { s with requests := encode (f .cpu) :: rest } =
      step { s with requests := encode (f .privileged) :: rest } := by
  rw [step_of_encode (hw _), step_of_encode (hw _), hf]

/-- Settles O11. The decoder alone asks for the port, and only in a force: no meaning depends on it. -/
theorem privilegeIsThePorts : Obligations.PrivilegeIsThePorts := by
  unfold Obligations.PrivilegeIsThePorts
  intro s rest a d w k v
  obtain ⟨-, refused⟩ := forceWriteIsRaw a d s rest
  refine ⟨refused, step_of_encode (i := .forceWrite a d) rfl s rest, ?_⟩
  intro f hf
  have portless : (∀ p, wellFormed (f p) = true) ∧ ∀ u, exec (f .cpu) u = exec (f .privileged) u := by
    simp only [List.mem_cons, List.not_mem_nil, or_false] at hf
    rcases hf with rfl | rfl | rfl | rfl | rfl | rfl | rfl | rfl <;> exact ⟨fun _ => rfl, fun _ => rfl⟩
  obtain ⟨hw, hexec⟩ := portless
  exact step_ports_alike hw hexec s rest

/-! ## Completion -/

/-- Every operation but a reserved one ends with one response, after it has neither taken a request nor responded. -/
theorem exec_eq_respond {i : Instr} (hw : wellFormed i = true) (hi : ∀ p op bits, i ≠ .reserved p op bits)
    (s : State) :
    ∃ resp u, exec i s = respond resp u ∧ u.requests = s.requests ∧ u.responses = s.responses := by
  cases performs_of_wellFormed hw with
  | reserved eq =>
    obtain ⟨t, ht⟩ := exec_next_of_not_reserved hi s
    exact nomatch (eq s).symm.trans ht
  | read a eq => exact ⟨_, _, eq s, busRead_requests a s, busRead_responses a s⟩
  | read16 a eq => exact ⟨_, _, eq s, by simp [busRead16], by simp [busRead16]⟩
  | pending k eq =>
    obtain ⟨-, hstate⟩ := readPending_spec k s
    exact ⟨_, _, eq s, by rw [hstate], by rw [hstate]⟩
  | classify a eq => exact ⟨_, _, eq s, rfl, rfl⟩
  | write a d names dma eq =>
    obtain ⟨hreq, -, -, hresp, -, -⟩ := busWrite_shape a d s
    exact ⟨_, _, eq s, hreq, hresp⟩
  | write16 a w names namesNext dma eq =>
    obtain ⟨hreq, -, -, hresp, -, -⟩ := busWrite16_shape a w s
    exact ⟨_, _, eq s, hreq, hresp⟩
  | rewrite reg k v irq names eq =>
    exact ⟨_, _, eq s, by simp [rewriteIrq_eq irq], by simp [rewriteIrq_eq irq]⟩
  | force a d eq =>
    subst eq
    exact ⟨_, _, rfl, putByte_requests s a d, putByte_responses s a d⟩

/-- Settles O13. Taking the request off is all that happens to the requests, and the response ends the operation. -/
theorem acceptedRequestsComplete : Obligations.AcceptedRequestsComplete := by
  unfold Obligations.AcceptedRequestsComplete
  intro s r rest i hr hd hi
  obtain ⟨resp, u, hexec, hreq, hresp⟩ :=
    exec_eq_respond (wellFormed_of_decode hd) hi { s with requests := rest }
  refine ⟨{ u with responses := u.responses ++ [resp] }, resp, ?_, hreq, congrArg (· ++ [resp]) hresp⟩
  rw [step_of_request hr, hd]
  exact hexec.trans (respond_eq resp u)

/-! ## A requester's priority -/

/-- None is picked exactly when no kind of the order is pending. -/
theorem firstPending_eq_none_iff {order : List Kind} {s : State} :
    firstPending order s = none ↔ ∀ k ∈ order, ¬ pendingBits s k := by
  simp only [firstPending, List.find?_eq_none, (readPending_spec _ s).1]

/-- The kind picked is pending, and it is the first of the order that is. -/
theorem firstPending_eq_some_iff {order : List Kind} {s : State} {k : Kind} :
    firstPending order s = some k ↔
      pendingBits s k ∧ ∃ before after, order = before ++ k :: after ∧ ∀ x ∈ before, ¬ pendingBits s x := by
  simp only [firstPending, List.find?_eq_some_iff_append, Bool.not_eq_true', ← Bool.not_eq_true,
    (readPending_spec _ s).1]

/-- Settles O56. A priority over all five kinds leaves none unasked. -/
theorem firstPendingFollowsPriority : Obligations.FirstPendingFollowsPriority := by
  unfold Obligations.FirstPendingFollowsPriority
  intro irqPriority s hall
  have none_iff : firstPending irqPriority s = none ↔ ∀ k, ¬ pendingBits s k :=
    firstPending_eq_none_iff.trans ⟨fun h k => h k (hall k), fun h k _ => h k⟩
  exact ⟨none_iff, fun k => firstPending_eq_some_iff.mp⟩

end Sys2Proof.Machine
end

section
/-! The construction state (R270): the seed list, 0x00 at every address off it, and no port call yet. -/

namespace Sys2Proof.Machine

/-- Every cell of the seed list is what its address reads at construction: no address is listed twice. -/
theorem byteAt_reset_of_mem_seedTable :
    ∀ c ∈ seedTable, byteAt State.reset (BitVec.ofNat 16 c.1) = c.2 := by decide

/-- A byte off the seed list is 0x00 ("All other bytes start at 0x00"). -/
theorem byteAt_reset_of_not_mem_seedTable {a : Addr}
    (ha : a ∉ seedTable.map fun c => BitVec.ofNat 16 c.1) : byteAt State.reset a = 0x00#8 := by
  have hf : seedTable.find? (fun c => c.1 == a.toNat) = none := by
    rw [List.find?_eq_none]
    intro c hc hca
    refine ha (List.mem_map.mpr ⟨c, hc, ?_⟩)
    rw [beq_iff_eq.mp hca, BitVec.ofNat_toNat, BitVec.setWidth_eq]
  rw [byteAt_reset, resetByte, hf]

/-- Settles O14. The 19 seeds are the cells of the seed list, and the addresses excluded are its addresses. -/
theorem constructionState : Obligations.ConstructionState := by
  unfold Obligations.ConstructionState
  have seeds := byteAt_reset_of_mem_seedTable
  simp only [seedTable, List.cons_append, List.nil_append, List.forall_mem_cons] at seeds
  simp only [seeds, true_and]
  exact ⟨fun _ ha => byteAt_reset_of_not_mem_seedTable ha, rfl⟩

end Sys2Proof.Machine
end

section
/-! A 16-bit value read back (conflict C4): where both addresses store their byte whole and are read plainly, the second
write spares the byte of the first, and the two reads find both. -/

namespace Sys2Proof.Machine

/-! ## The round-trip addresses -/

/-- Conflict C4 leaves out the write cases that store nothing or a part of the byte, and the two registers read masked. -/
theorem wholeByte_of_roundTripAddr {a : Addr} (h : roundTripAddr a = true) :
    (∃ c ∈ wholeByteCases, writeCaseAddr c a = true) ∧ a ≠ ifAddr ∧ a ≠ ieAddr := by
  simp only [roundTripAddr, Bool.and_eq_true, Bool.not_eq_true', Bool.or_eq_false_iff, beq_eq_false_iff_ne] at h
  obtain ⟨⟨⟨⟨hcart, hvram⟩, hoam⟩, ⟨hjoyp, hdiv⟩, hif⟩, ⟨hstat, hly⟩, hie⟩ := h
  refine ⟨⟨writeCaseOf a, ?_, writeCaseAddr_writeCaseOf a⟩, hif, hie⟩
  have hc := writeCaseAddr_writeCaseOf a
  cases hcase : writeCaseOf a <;> rw [hcase] at hc
  case wram | echo | lcdc | dma | plain => decide
  case cart => exact absurd hc (ne_true_of_eq_false hcart)
  case vram => exact absurd hc (ne_true_of_eq_false hvram)
  case oam => exact absurd hc (ne_true_of_eq_false hoam)
  case joyp => exact absurd (eq_of_beq hc) hjoyp
  case div => exact absurd (eq_of_beq hc) hdiv
  case stat => exact absurd (eq_of_beq hc) hstat
  case ly => exact absurd (eq_of_beq hc) hly

/-- A read at a round-trip address returns the stored byte and leaves the state (R147). -/
theorem busRead_of_roundTripAddr {a : Addr} (h : roundTripAddr a = true) (s : State) :
    busRead a s = (byteAt s a, s) := by
  obtain ⟨⟨c, hmem, hc⟩, hif, hie⟩ := wholeByte_of_roundTripAddr h
  exact busRead_of_case (readCaseAddr_plain_of_wholeByte hmem hc hif hie) s

/-- A write at a round-trip address stores its data whole. -/
theorem byteAt_busWrite_of_roundTripAddr {a : Addr} (h : roundTripAddr a = true) (d : Byte) (s : State) :
    byteAt (busWrite a d s) a = d := by
  obtain ⟨⟨c, hmem, hc⟩, -, -⟩ := wholeByte_of_roundTripAddr h
  rw [byteAt_busWrite_self hc, writableBits_of_wholeByte c hmem, mergeBits_all]

/-! ## The two bytes of a 16-bit access -/

/-- The high and the low byte of a value join to it (R94). -/
theorem joinBytes_highByte_lowByte (w : Half) : joinBytes (highByte w) (lowByte w) = w :=
  BitVec.extractLsb'_append_extractLsb'

/-- A write never stores the byte just below its own address: the echo pairs lie 0x2000 apart, and LY and STAT above LCDC. -/
theorem not_storesAt_nextAddr (a : Addr) : ¬ storesAt (nextAddr a) a := by
  intro h
  have hcases := storesAt_toNat h
  have hnext : (nextAddr a).toNat = (a.toNat + 1) % 65536 := by simp [nextAddr]
  omega

/-- A 16-bit write leaves both bytes of its value where both addresses round-trip (R185). -/
theorem byteAt_busWrite16 {a : Addr} (ha : roundTripAddr a = true) (hn : roundTripAddr (nextAddr a) = true) (w : Half)
    (s : State) :
    byteAt (busWrite16 a w s) a = lowByte w ∧ byteAt (busWrite16 a w s) (nextAddr a) = highByte w := by
  constructor
  · rw [busWrite16, byteAt_busWrite_of_not_storesAt (not_storesAt_nextAddr a), byteAt_busWrite_of_roundTripAddr ha]
  · exact byteAt_busWrite_of_roundTripAddr hn _ _

/-- `READ16` where both addresses round-trip responds with the two stored bytes joined, and changes nothing else (R150). -/
theorem exec_read16_of_roundTripAddr {a : Addr} (ha : roundTripAddr a = true) (hn : roundTripAddr (nextAddr a) = true)
    (p : Port) (s : State) :
    exec (.read16 p a) s =
      .next { s with responses := s.responses ++ [.half (joinBytes (byteAt s (nextAddr a)) (byteAt s a))] } := by
  simpa only [busRead_of_roundTripAddr ha, busRead_of_roundTripAddr hn] using exec_read16_eq p a s

/-- Settles O27. The 16-bit write leaves both bytes, its response changes neither, and the 16-bit read joins them. -/
theorem sixteenBitRoundTrip : Obligations.SixteenBitRoundTrip := by
  unfold Obligations.SixteenBitRoundTrip
  intro p q a w s ha hn
  obtain ⟨hlow, hhigh⟩ := byteAt_busWrite16 ha hn w s
  have hjoin : joinBytes (byteAt (busWrite16 a w s) (nextAddr a)) (byteAt (busWrite16 a w s) a) = w := by
    rw [hlow, hhigh, joinBytes_highByte_lowByte]
  exact ⟨_, _, exec_write16_eq p a w s, exec_read16_of_roundTripAddr ha hn q _,
    congrArg (fun h => _ ++ [Response.half h]) hjoin⟩

end Sys2Proof.Machine
end
